-- ==== Sys2Proof/Word.lean ====
section
/-! DEFINITION. The plain word types of TSFP: every value is an unsigned integer of a stated width
(00_scope.md R10, R11). -/

namespace Sys2Proof

/-- One bit (R11). -/
abbrev Bit := BitVec 1

/-- One stream byte, bits 7 down to 0 (R11, 20_memory.md R64). -/
abbrev Byte := BitVec 8

/-- The event vector `e[4:0] = rst ## clear ## xfer ## in_err ## in_eos` (30_encoding.md R91). -/
abbrev EvtVec := BitVec 5

/-- The header word: window bytes 0 to 3, byte 0 in bits 31:24 (R11, 30_encoding.md R90). -/
abbrev HdrWord := BitVec 32

/-- A packet identifier, `PID_WIDTH` = 13 bits (R6). -/
abbrev Pid := BitVec 13

end Sys2Proof
end

