-- ==== Sys2Proof/Config.lean ====
section
/-! DEFINITION. The parameters of the block as one record (00_scope.md R6), with the values the spec fixes. The
spec leaves no value of the event model free (93_implementation_defined.md section 1), so there is no opaque
constant here. -/

namespace Sys2Proof

/-- The parameters of rule R6. `PID_WIDTH` is the width of `Pid`. -/
structure Params where
  /-- `PKT_SIZE`: bytes per window. -/
  pktSize : Nat
  /-- `HDR_SIZE`: bytes of header. -/
  hdrSize : Nat
  /-- `SYNC_BYTE`: the value byte 0 must have. -/
  syncByte : Byte
  /-- `PID_PAT`: PID of the program-association payload. -/
  pidPat : Pid
  /-- `PID_NULL`: PID of the stuffing payload. -/
  pidNull : Pid
  /-- `P_AFC00_RESIDUAL` (92_eei_decisions.md D9): true, a header with `afc = 00` raises `RESIDUAL`; false, its 184
  bytes are skipped. -/
  afc00Residual : Bool
deriving DecidableEq, Repr

/-- `BUDGET = PKT_SIZE - HDR_SIZE` (R6). -/
def Params.budget (p : Params) : Nat := p.pktSize - p.hdrSize

/-- `AF_LEN_MAX = BUDGET - 1` (R6). -/
def Params.afLenMax (p : Params) : Nat := p.budget - 1

/-- The side conditions the register widths need (93_implementation_defined.md U6). -/
abbrev Params.Fits (p : Params) : Prop :=
  p.hdrSize = 4 ∧ 4 < p.pktSize ∧ p.pktSize ≤ 256

/-- The hardware's parameters, the values of R6. UNVERIFIED, unsafe: the source's literals are unaudited (log 10);
`afc00Residual` is the value D9 fixes (log 7). -/
def Config.params : Params :=
  { pktSize := 188, hdrSize := 4, syncByte := 0x47, pidPat := 0x0000, pidNull := 0x1FFF, afc00Residual := true }

/-- The same parameters with either value of the one OPEN parameter (D9, 93 U5): a claim meant for both values
quantifies over `v`. -/
def Config.paramsWith (v : Bool) : Params := { Config.params with afc00Residual := v }

end Sys2Proof
end

