-- ==== Sys2Proof/Syntax.lean ====
section
/-! DEFINITION. The operations of TSFP: one constructor of `Instr` for each row of spec/opcode_table.json
(30_encoding.md R114), the six input events (10_state.md R41), and the phases and decode tables that give an
encoding its context (R90, R94). -/

namespace Sys2Proof

/-- The control state of the framer (10_state.md R21). Code 6 is never taken, so it has no constructor
(93_implementation_defined.md U4, log 13). -/
inductive Phase where
  | idle
  | hdr
  | aflen
  | af
  | payload
  | skip
  | err
deriving DecidableEq, Repr

/-- One row of the operation table each (30_encoding.md R114). The arguments are the row's operand fields, at the
widths of R95, R99. A row that is a sub-case of another one (the header classes and PID classes of `hb3`, the length
cases of `aflen`) names the same step at a finer grain (log 5). -/
inductive Instr where
  /-- `RESET` (R131). -/
  | reset
  /-- `CLEAR` (R132). -/
  | clear
  /-- `SRCERR` (R133). -/
  | srcerr
  /-- `EOS` (R134). -/
  | eos
  /-- `BYTE(b)` (R135). -/
  | byte (b : Byte)
  /-- `NOP` (R136). -/
  | nop
  /-- `SYNC(b)`, `b = 0x47` (R160). -/
  | sync
  /-- `BADSYNC(b)`, `b != 0x47` (R161). -/
  | badsync (b : Byte)
  /-- `HB1(b)`, `b = tei ## pusi ## prio ## pid[12:8]` (R162). -/
  | hb1 (tei pusi prio : Bit) (pidHi : BitVec 5)
  /-- `HB2(b)`, `b = pid[7:0]` (R163). -/
  | hb2 (pidLo : Byte)
  /-- `HB3(b)`, `b = tsc ## afc ## cc` (R164). -/
  | hb3 (tsc afc : BitVec 2) (cc : BitVec 4)
  /-- `HDR.AFC00` (R170): the header word has sync 0x47 and `afc = 00`. -/
  | hdrAfc00 (tei pusi prio : Bit) (pid : Pid) (tsc : BitVec 2) (cc : BitVec 4)
  /-- `HDR.AFC01` (R167). -/
  | hdrAfc01 (tei pusi prio : Bit) (pid : Pid) (tsc : BitVec 2) (cc : BitVec 4)
  /-- `HDR.AFC10` (R168). -/
  | hdrAfc10 (tei pusi prio : Bit) (pid : Pid) (tsc : BitVec 2) (cc : BitVec 4)
  /-- `HDR.AFC11` (R169). -/
  | hdrAfc11 (tei pusi prio : Bit) (pid : Pid) (tsc : BitVec 2) (cc : BitVec 4)
  /-- `PIDC.PAT` (R171): the header word has `pid = 0x0000`. -/
  | pidcPat (sync : Byte) (tei pusi prio : Bit) (tsc afc : BitVec 2) (cc : BitVec 4)
  /-- `PIDC.STUFF` (R172): the header word has `pid = 0x1FFF`. -/
  | pidcStuff (sync : Byte) (tei pusi prio : Bit) (tsc afc : BitVec 2) (cc : BitVec 4)
  /-- `PIDC.RAW` (R173): any other `pid`. -/
  | pidcRaw (sync : Byte) (tei pusi prio : Bit) (pid : Pid) (tsc afc : BitVec 2) (cc : BitVec 4)
  /-- `AFLEN(b)`, the length byte `L` (R191). -/
  | aflen (len : Byte)
  /-- `AFLEN.OVERRUN`, `L > 183` (R192). -/
  | aflenOverrun (len : Byte)
  /-- `AFLEN.RESIDUAL`, `L < 183` and `has_payload = 0` (R193). -/
  | aflenResidual (len : Byte)
  /-- `AFLEN.OK`, `L <= 183` and (`has_payload = 1` or `L = 183`) (R194). -/
  | aflenOk (len : Byte)
  /-- `AFBYTE(b)` (R196). -/
  | afbyte (b : Byte)
  /-- `PAYBYTE(b)` (R220). -/
  | paybyte (b : Byte)
  /-- `SKIPBYTE(b)` (R221). -/
  | skipbyte (b : Byte)
deriving DecidableEq, Repr

/-- The six input events (10_state.md R41). `EOS` and `SRCERR` carry no data (93_implementation_defined.md U7). -/
inductive Event where
  | reset
  | clear
  | srcerr
  | eos
  | byte (b : Byte)
  | nop
deriving DecidableEq, Repr

/-- The event as a row of the operation table. -/
def Event.toInstr : Event → Instr
  | .reset => .reset
  | .clear => .clear
  | .srcerr => .srcerr
  | .eos => .eos
  | .byte b => .byte b
  | .nop => .nop

/-- Which decode table reads a word, with the context it reads it in (30_encoding.md R90, R94, R98, R99, R103). A
stream byte has no opcode field of its own (R93). -/
inductive Table where
  /-- Format `EVT`, in one byte with bits 7:5 zero; the data byte of a `BYTE` event follows it (95_test_vectors.md
  section 3). -/
  | evt
  /-- Format `B8` in the context `(phase, pos)` (R94). -/
  | b8 (phase : Phase) (pos : Byte)
  /-- Format `H32`, read by the header classes of R98. -/
  | h32Class
  /-- Format `H32`, read by the PID classes of R103. -/
  | h32Pid
  /-- Format `L8` in a window whose `has_payload` is given (R99). -/
  | l8 (hasPayload : Bool)
deriving DecidableEq, Repr

/-- Why a decode table refuses a word. -/
inductive Reject where
  /-- The bytes end before the word does. -/
  | short
  /-- An event vector has five bits; a bit above them is set (R91). -/
  | evtTooWide
  /-- No row of R94 has this `(phase, pos)`, or the phase is `ERR`. -/
  | noContext
  /-- The sync field of a header word is not `SYNC_BYTE` (R97, R107). -/
  | badSyncField
deriving DecidableEq, Repr

end Sys2Proof
end

