-- ==== Sys2Proof/WellFormed.lean ====
section
/-! DEFINITION. Which terms of `Instr` are operations: the constraints the table puts on a row's operands
(30_encoding.md R94, R99, R103). Constraints on the state a row needs are its context, checked by its meaning. -/

namespace Sys2Proof

/-- The operand constraints of the rows; a row without one covers every value. -/
def Instr.wf (p : Params) : Instr → Bool
  | .reset => true
  | .clear => true
  | .srcerr => true
  | .eos => true
  | .byte _ => true
  | .nop => true
  | .sync => true
  | .badsync b => b != p.syncByte
  | .hb1 _ _ _ _ => true
  | .hb2 _ => true
  | .hb3 _ _ _ => true
  | .hdrAfc00 _ _ _ _ _ _ => true
  | .hdrAfc01 _ _ _ _ _ _ => true
  | .hdrAfc10 _ _ _ _ _ _ => true
  | .hdrAfc11 _ _ _ _ _ _ => true
  | .pidcPat _ _ _ _ _ _ _ => true
  | .pidcStuff _ _ _ _ _ _ _ => true
  | .pidcRaw _ _ _ _ pid _ _ _ => pid != p.pidPat && pid != p.pidNull
  | .aflen _ => true
  | .aflenOverrun len => decide (p.afLenMax < len.toNat)
  | .aflenResidual len => decide (len.toNat < p.afLenMax)
  | .aflenOk len => decide (len.toNat ≤ p.afLenMax)
  | .afbyte _ => true
  | .paybyte _ => true
  | .skipbyte _ => true

/-- A well-formed operation of the hardware (parameters of R6). -/
abbrev Instr.WellFormed (i : Instr) : Prop := i.wf Config.params = true

end Sys2Proof
end

