-- ==== Sys2Proof/Decode.lean ====
section
/-! DEFINITION. The decoder, total on any bytes, and the encoder, both from the encoding tables of 30_encoding.md.
Bit order in a byte and byte order of the header word: R62, R63, R95 (PRESUMED by the spec itself, G1: log 8). -/

namespace Sys2Proof

/-! ### Bit fields (R11, R12, R95) -/

/-- `hdr[31:24]`, the sync field. -/
def hdrSync (h : HdrWord) : Byte := h.extractLsb' 24 8
/-- `hdr[23]`, the transport-error flag. -/
def hdrTei (h : HdrWord) : Bit := h.extractLsb' 23 1
/-- `hdr[22]`, the payload-unit-start flag. -/
def hdrPusi (h : HdrWord) : Bit := h.extractLsb' 22 1
/-- `hdr[21]`, the transport-priority flag. -/
def hdrPrio (h : HdrWord) : Bit := h.extractLsb' 21 1
/-- `hdr[20:8]`, the packet identifier (R101). -/
def hdrPid (h : HdrWord) : Pid := h.extractLsb' 8 13
/-- `hdr[7:6]`, scrambling-control. -/
def hdrTsc (h : HdrWord) : BitVec 2 := h.extractLsb' 6 2
/-- `hdr[5:4]`, adaptation-field-control. -/
def hdrAfc (h : HdrWord) : BitVec 2 := h.extractLsb' 4 2
/-- `hdr[3:0]`, the continuity counter. -/
def hdrCc (h : HdrWord) : BitVec 4 := h.extractLsb' 0 4

/-- Window byte `k` of a header word, at `hdr[31-8k : 24-8k]` (R11, R23). -/
def hdrByte (h : HdrWord) (k : Nat) : Byte := h.extractLsb' (24 - 8 * k) 8

/-- `hdr = byte0 ## byte1 ## byte2 ## byte3` (R11). -/
def joinBytes (b0 b1 b2 b3 : Byte) : HdrWord := b0 ++ b1 ++ b2 ++ b3

/-- The header word with the given fields, the inverse of R95 (the `HEADER` pseudo-line of R112). -/
def packHeader (sync : Byte) (tei pusi prio : Bit) (pid : Pid) (tsc afc : BitVec 2) (cc : BitVec 4) : HdrWord :=
  sync ++ tei ++ pusi ++ prio ++ pid ++ tsc ++ afc ++ cc

/-- Window byte 1: `tei ## pusi ## prio ## pid[12:8]` (R95). -/
def packByte1 (tei pusi prio : Bit) (pidHi : BitVec 5) : Byte := tei ++ pusi ++ prio ++ pidHi

/-- Window byte 3: `tsc ## afc ## cc` (R95). -/
def packByte3 (tsc afc : BitVec 2) (cc : BitVec 4) : Byte := tsc ++ afc ++ cc

/-! ### The decode tables -/

/-- Event decode by mask and match (R92); the rows are disjoint, so their order does not matter. `b` is `in_data`,
looked at on a data beat only. -/
def decodeEvt (e : EvtVec) (b : Byte) : Event :=
  if e &&& 0b10000 = 0b10000 then .reset
  else if e &&& 0b11000 = 0b01000 then .clear
  else if e &&& 0b11110 = 0b00110 then .srcerr
  else if e &&& 0b11111 = 0b00101 then .eos
  else if e &&& 0b11111 = 0b00100 then .byte b
  else .nop

/-- The rows of window byte 1 read as fields (R162). -/
def decodeHb1 (b : Byte) : Instr :=
  .hb1 (b.extractLsb' 7 1) (b.extractLsb' 6 1) (b.extractLsb' 5 1) (b.extractLsb' 0 5)

/-- Window byte 3 read as fields (R164). -/
def decodeHb3 (b : Byte) : Instr :=
  .hb3 (b.extractLsb' 6 2) (b.extractLsb' 4 2) (b.extractLsb' 0 4)

/-- The context table of a stream byte (R94). The `pos` ranges are those of the rows' contexts. -/
def decodeB8 (p : Params) (ph : Phase) (pos : Byte) (b : Byte) : Except Reject Instr :=
  match ph with
  | .idle => if pos = 0 then .ok (if b = p.syncByte then .sync else .badsync b) else .error .noContext
  | .hdr =>
    if pos = 1 then .ok (decodeHb1 b)
    else if pos = 2 then .ok (.hb2 b)
    else if pos = 3 then .ok (decodeHb3 b)
    else .error .noContext
  | .aflen => if pos.toNat = p.hdrSize then .ok (.aflen b) else .error .noContext
  | .af => if p.hdrSize < pos.toNat ∧ pos.toNat < p.pktSize then .ok (.afbyte b) else .error .noContext
  | .payload => if p.hdrSize ≤ pos.toNat ∧ pos.toNat < p.pktSize then .ok (.paybyte b) else .error .noContext
  | .skip => if p.hdrSize ≤ pos.toNat ∧ pos.toNat < p.pktSize then .ok (.skipbyte b) else .error .noContext
  | .err => .error .noContext

/-- The header classes (R97, R98). -/
def decodeClass (p : Params) (h : HdrWord) : Except Reject Instr :=
  if hdrSync h = p.syncByte then
    .ok (if hdrAfc h = 0b01 then .hdrAfc01 (hdrTei h) (hdrPusi h) (hdrPrio h) (hdrPid h) (hdrTsc h) (hdrCc h)
      else if hdrAfc h = 0b10 then .hdrAfc10 (hdrTei h) (hdrPusi h) (hdrPrio h) (hdrPid h) (hdrTsc h) (hdrCc h)
      else if hdrAfc h = 0b11 then .hdrAfc11 (hdrTei h) (hdrPusi h) (hdrPrio h) (hdrPid h) (hdrTsc h) (hdrCc h)
      else .hdrAfc00 (hdrTei h) (hdrPusi h) (hdrPrio h) (hdrPid h) (hdrTsc h) (hdrCc h))
  else .error .badSyncField

/-- The PID classes (R103). They do not look at the sync field. -/
def decodePid (p : Params) (h : HdrWord) : Instr :=
  if hdrPid h = p.pidPat then
    .pidcPat (hdrSync h) (hdrTei h) (hdrPusi h) (hdrPrio h) (hdrTsc h) (hdrAfc h) (hdrCc h)
  else if hdrPid h = p.pidNull then
    .pidcStuff (hdrSync h) (hdrTei h) (hdrPusi h) (hdrPrio h) (hdrTsc h) (hdrAfc h) (hdrCc h)
  else
    .pidcRaw (hdrSync h) (hdrTei h) (hdrPusi h) (hdrPrio h) (hdrPid h) (hdrTsc h) (hdrAfc h) (hdrCc h)

/-- The cases of the length byte, in the order of R99. -/
def decodeL8 (p : Params) (hasPayload : Bool) (len : Byte) : Instr :=
  if p.afLenMax < len.toNat then .aflenOverrun len
  else if hasPayload = false ∧ len.toNat < p.afLenMax then .aflenResidual len
  else .aflenOk len

/-- Reads one word of format `EVT`: the vector in one byte, then the data byte of a `BYTE` event. -/
def decodeEvtBytes : List Byte → Except Reject (Instr × List Byte)
  | [] => .error .short
  | e :: rest =>
    if 32 ≤ e.toNat then .error .evtTooWide
    else match decodeEvt (e.extractLsb' 0 5) 0 with
      | .byte _ => match rest with
        | [] => .error .short
        | b :: rest' => .ok (.byte b, rest')
      | ev => .ok (ev.toInstr, rest)

/-- Reads one byte with a decode table of formats `B8` and `L8`. -/
def decodeByteWith (f : Byte → Except Reject Instr) : List Byte → Except Reject (Instr × List Byte)
  | [] => .error .short
  | b :: rest => (f b).map fun i => (i, rest)

/-- Reads a header word, byte 0 first, with a decode table of format `H32`. -/
def decodeWordWith (f : HdrWord → Except Reject Instr) : List Byte → Except Reject (Instr × List Byte)
  | b0 :: b1 :: b2 :: b3 :: rest => (f (joinBytes b0 b1 b2 b3)).map fun i => (i, rest)
  | _ => .error .short

/-- The decoder: a table of R90 and bytes in stream order give an operation and the bytes after it, or a refusal by
name. -/
def decode (t : Table) (bs : List Byte) : Except Reject (Instr × List Byte) :=
  match t with
  | .evt => decodeEvtBytes bs
  | .b8 ph pos => decodeByteWith (decodeB8 Config.params ph pos) bs
  | .h32Class => decodeWordWith (decodeClass Config.params) bs
  | .h32Pid => decodeWordWith (fun h => .ok (decodePid Config.params h)) bs
  | .l8 hp => decodeByteWith (fun b => .ok (decodeL8 Config.params hp b)) bs

/-! ### The encoder -/

/-- The four bytes of a header word in stream order (R62). -/
def splitBytes (h : HdrWord) : List Byte := [hdrByte h 0, hdrByte h 1, hdrByte h 2, hdrByte h 3]

/-- The bytes of an operation, don't-care bits written 0 (95_test_vectors.md section 3). -/
def encode (i : Instr) : List Byte :=
  let sync := Config.params.syncByte
  match i with
  | .reset => [0b10000]
  | .clear => [0b01000]
  | .srcerr => [0b00110]
  | .eos => [0b00101]
  | .byte b => [0b00100, b]
  | .nop => [0b00000]
  | .sync => [sync]
  | .badsync b => [b]
  | .hb1 tei pusi prio pidHi => [packByte1 tei pusi prio pidHi]
  | .hb2 pidLo => [pidLo]
  | .hb3 tsc afc cc => [packByte3 tsc afc cc]
  | .hdrAfc00 tei pusi prio pid tsc cc => splitBytes (packHeader sync tei pusi prio pid tsc 0b00 cc)
  | .hdrAfc01 tei pusi prio pid tsc cc => splitBytes (packHeader sync tei pusi prio pid tsc 0b01 cc)
  | .hdrAfc10 tei pusi prio pid tsc cc => splitBytes (packHeader sync tei pusi prio pid tsc 0b10 cc)
  | .hdrAfc11 tei pusi prio pid tsc cc => splitBytes (packHeader sync tei pusi prio pid tsc 0b11 cc)
  | .pidcPat sy tei pusi prio tsc afc cc =>
    splitBytes (packHeader sy tei pusi prio Config.params.pidPat tsc afc cc)
  | .pidcStuff sy tei pusi prio tsc afc cc =>
    splitBytes (packHeader sy tei pusi prio Config.params.pidNull tsc afc cc)
  | .pidcRaw sy tei pusi prio pid tsc afc cc => splitBytes (packHeader sy tei pusi prio pid tsc afc cc)
  | .aflen len => [len]
  | .aflenOverrun len => [len]
  | .aflenResidual len => [len]
  | .aflenOk len => [len]
  | .afbyte b => [b]
  | .paybyte b => [b]
  | .skipbyte b => [b]

/-- The tables that read a row: its format and its context (the "context" column of spec/opcode_table.json, R94, R98,
R99, R103). -/
def Table.holds (t : Table) (i : Instr) : Bool :=
  let hdrSize := Config.params.hdrSize
  let pktSize := Config.params.pktSize
  match t, i with
  | .evt, .reset | .evt, .clear | .evt, .srcerr | .evt, .eos | .evt, .byte _ | .evt, .nop => true
  | .b8 .idle pos, .sync => pos == 0
  | .b8 .idle pos, .badsync _ => pos == 0
  | .b8 .hdr pos, .hb1 _ _ _ _ => pos == 1
  | .b8 .hdr pos, .hb2 _ => pos == 2
  | .b8 .hdr pos, .hb3 _ _ _ => pos == 3
  | .b8 .aflen pos, .aflen _ => pos.toNat == hdrSize
  | .b8 .af pos, .afbyte _ => decide (hdrSize < pos.toNat ∧ pos.toNat < pktSize)
  | .b8 .payload pos, .paybyte _ => decide (hdrSize ≤ pos.toNat ∧ pos.toNat < pktSize)
  | .b8 .skip pos, .skipbyte _ => decide (hdrSize ≤ pos.toNat ∧ pos.toNat < pktSize)
  | .h32Class, .hdrAfc00 _ _ _ _ _ _ | .h32Class, .hdrAfc01 _ _ _ _ _ _ => true
  | .h32Class, .hdrAfc10 _ _ _ _ _ _ | .h32Class, .hdrAfc11 _ _ _ _ _ _ => true
  | .h32Pid, .pidcPat _ _ _ _ _ _ _ | .h32Pid, .pidcStuff _ _ _ _ _ _ _ => true
  | .h32Pid, .pidcRaw _ _ _ _ _ _ _ _ => true
  | .l8 _, .aflenOverrun _ => true
  | .l8 hp, .aflenResidual _ => !hp
  | .l8 hp, .aflenOk len => hp || len.toNat == Config.params.afLenMax
  | _, _ => false

/-! ### The host's numbering of the table -/

/-- Which decode table reads a word given by its number of bits and its value (log 16). Formats `EVT`, `B8` and `L8`
all fit one byte: a value below 32 is an event vector; any other is a stream byte in the context after reset,
`(IDLE, 0)`. A 32-bit word is a header: with a right sync field it is read by the header classes, else by the PID
classes, which do not look at that field. -/
def tableOfWord (nbits w : Nat) : Table :=
  if nbits ≤ 16 then (if w % 256 < 32 then .evt else .b8 .idle 0)
  else if w / 2 ^ 24 % 256 = Config.params.syncByte.toNat then .h32Class else .h32Pid

/-- The bytes of a word in stream order. A word of at most 16 bits is an `EVT` byte and its data byte (0 where the
row gives it no bits), or one stream byte; a 32-bit header word has byte 0 in bits 31:24 (R11). -/
def bytesOfWord (nbits w : Nat) : List Byte :=
  if nbits ≤ 16 then [BitVec.ofNat 8 w, BitVec.ofNat 8 (w / 256)]
  else splitBytes (BitVec.ofNat 32 w)

/-- The operation this decoder reads from a row's word (log 16); `none` where it refuses, or where the word is of no
format's width. -/
def decodeTableWord (nbits w : Nat) : Option Instr :=
  if nbits ≤ 16 ∨ nbits = 32 then
    match decode (tableOfWord nbits w) (bytesOfWord nbits w) with
    | .ok (i, _) => some i
    | .error _ => none
  else none

end Sys2Proof
end

