-- ==== Sys2Proof/Machine/State.lean ====
section
/-! DEFINITION. The state of TSFP (10_state.md R20) with the input samples it has still to react to and the output
events of its last step, its outcomes' reasons, and the state after reset (R36). -/

namespace Sys2Proof.Machine

/-- The payload-decoder selector `pid_class` (10_state.md R28, 30_encoding.md R103). -/
inductive PidClass where
  | pat
  | stuff
  | raw
deriving DecidableEq, Repr

/-- The five error causes (60_exceptions.md R241). Code 0 of `err_cause`, no error latched, is `none` of
`Option Cause`; codes 6 and 7 cannot be formed (93_implementation_defined.md U4, log 13). -/
inductive Cause where
  | badSync
  | truncated
  | afOverrun
  | residual
  | sourceIo
deriving DecidableEq, Repr

/-- The header record `r` of the `Hdr` event (10_state.md R44, 41_header_parser.md R165). -/
structure HdrRecord where
  tei : Bit
  pusi : Bit
  prio : Bit
  pid : Pid
  tsc : BitVec 2
  afc : BitVec 2
  cc : BitVec 4
  hasAf : Bool
  hasPayload : Bool
  pidClass : PidClass
deriving DecidableEq, Repr

/-- The output event alphabet (10_state.md R44). -/
inductive OutEvent where
  | hdr (r : HdrRecord)
  | afLen (len : Byte)
  | afByte (b : Byte)
  | payByte (b : Byte)
  | done
  | eos
  | err (c : Cause) (pos : Byte)
deriving DecidableEq, Repr

/-- What the environment drives on the input ports in one step (10_state.md R40). -/
structure PortIn where
  rst : Bool
  clear : Bool
  inValid : Bool
  inData : Byte
  inEos : Bool
  inErr : Bool
deriving DecidableEq, Repr

/-- The register `hdr`: four byte lanes, each a byte or the spec's "no value" (10_state.md R20, R23). -/
structure HdrReg where
  lane0 : Option Byte
  lane1 : Option Byte
  lane2 : Option Byte
  lane3 : Option Byte
deriving DecidableEq, Repr

/-- The seven registers of 10_state.md R20, and two fields of the model's own: the input samples to come and the
output of the last step. `none` in a data register is the value `⊥` that R20, R14 and R36 give it (log 3). -/
structure State where
  /-- What the next byte is (R21). -/
  phase : Phase
  /-- Bytes of the current window consumed so far (R22). -/
  pos : Byte
  /-- Window bytes 0 to 3 as captured (R23). -/
  hdr : HdrReg
  /-- `hdr` holds a complete header with a correct sync byte (R27). -/
  hdrValid : Bool
  /-- The adaptation-field length byte as captured (R24). -/
  afLen : Option Byte
  /-- Adaptation-field body bytes still to come (R25). -/
  afRem : Option Byte
  /-- The latched error, `none` for code 0 (R31). -/
  errCause : Option Cause
  /-- MODEL'S OWN (log 1): the samples of the input ports of the steps to come, the next one first. -/
  input : List PortIn
  /-- MODEL'S OWN (log 2): the output list of the last step, in order (R13 `Emit`, R44). -/
  out : List OutEvent
deriving DecidableEq, Repr

/-- Why the model stops. Both are the spec's own model stops and neither is met from reset; both are safe. -/
inductive Fault where
  /-- Raised by the meaning of a byte operation, header class or length case in a state outside the context its row
  names (phase, `pos`, header bytes, `has_payload`, range of `af_rem`). "No rule says what a step does from such a
  state" (10_state.md R30; stuck, 93_implementation_defined.md U3). Safe (log 4). -/
  | outOfContext
  /-- Raised by the meanings of `BYTE`, `HB3`, `AFLEN`, `AFLEN.RESIDUAL`, `AFLEN.OK` and `AFBYTE` on a read of a lane, of
  `has_payload` or of `af_rem` while it is `⊥`: "a model fault" (00_scope.md R13, R14), "never zero" (D16 of
  92_eei_decisions.md), "a **fault** of the model" (93_implementation_defined.md U1). No operation meets it from a state
  of R30 (`exec_ne_readNoValue`). Safe (log 3). -/
  | readNoValue
deriving DecidableEq, Repr

/-- Why the model has no meaning for a term of `Instr`. -/
inductive Refusal where
  /-- An arm of `exec` that has no meaning yet. No arm is left so. Safe. -/
  | notModelled (mnemonic : String)
  /-- Raised by the meanings of `BADSYNC`, `PIDC.RAW` and the three length cases for an operand value the row does
  not cover: the term is no operation of the table, and the decoder never gives it. Safe (log 6). -/
  | illFormed
deriving DecidableEq, Repr

/-- `hdr` after RESET: every lane `⊥` (R36). -/
def HdrReg.noValue : HdrReg := { lane0 := none, lane1 := none, lane2 := none, lane3 := none }

/-- The state after RESET (10_state.md R36, 70_reset_and_hazards.md R280): the registers at the spec's values, no
sample placed and nothing emitted. -/
def State.reset : State :=
  { phase := .idle, pos := 0, hdr := HdrReg.noValue, hdrValid := false, afLen := none, afRem := none,
    errCause := none, input := [], out := [] }

end Sys2Proof.Machine
end

