-- ==== Sys2Proof/Machine/Ops.lean ====
section
/-! DEFINITION. The named operations over the registers and the output list (00_scope.md R13), the taking of an error
and the return from one (60_exceptions.md R250, R253), the advance law (40_framer_events.md R137), and the three ways
a meaning stops. TSFP writes no memory (20_memory.md R60), so there is no store here. -/

namespace Sys2Proof.Machine

/-- The outcome of a meaning. -/
abbrev Res := Host.Outcome State Fault Refusal

/-! ### Register writes -/

/-- `phase <- ph`. -/
def setPhase (ph : Phase) (s : State) : State := { s with phase := ph }

/-- `pos <- n`. -/
def setPos (n : Byte) (s : State) : State := { s with pos := n }

/-- `hdr.lane[0] <- b`, and no other lane (R23). -/
def setLane0 (b : Byte) (s : State) : State := { s with hdr := { s.hdr with lane0 := some b } }

/-- `hdr.lane[1] <- b`. -/
def setLane1 (b : Byte) (s : State) : State := { s with hdr := { s.hdr with lane1 := some b } }

/-- `hdr.lane[2] <- b`. -/
def setLane2 (b : Byte) (s : State) : State := { s with hdr := { s.hdr with lane2 := some b } }

/-- `hdr.lane[3] <- b`. -/
def setLane3 (b : Byte) (s : State) : State := { s with hdr := { s.hdr with lane3 := some b } }

/-- `hdr_valid <- v`. -/
def setHdrValid (v : Bool) (s : State) : State := { s with hdrValid := v }

/-- `af_len <- b`. -/
def setAfLen (b : Byte) (s : State) : State := { s with afLen := some b }

/-- `af_rem <- b`. -/
def setAfRem (b : Byte) (s : State) : State := { s with afRem := some b }

/-- `err_cause <- c`; `none` is code 0. -/
def setErrCause (c : Option Cause) (s : State) : State := { s with errCause := c }

/-- `Emit(e)`: append `e` to the step's output list (R13). -/
def emit (e : OutEvent) (s : State) : State := { s with out := s.out ++ [e] }

/-! ### Errors, return, advance -/

/-- `raise c` (60_exceptions.md R250): `pos` keeps its value, which `Err` carries; writes made before stand. -/
def raise (c : Cause) (s : State) : State :=
  setPhase .err (setErrCause (some c) (emit (.err c s.pos) s))

/-- The return from an error, and the body of `CLEAR` (R132, R253): `hdr`, `af_len` and `af_rem` stay. -/
def returnToIdle (s : State) : State :=
  setErrCause none (setHdrValid false (setPos 0 (setPhase .idle s)))

/-- The body of `RESET` (R131): as `CLEAR`, and the data registers hold no value. -/
def resetRegisters (s : State) : State :=
  { returnToIdle s with hdr := HdrReg.noValue, afLen := none, afRem := none }

/-- The advance law, which ends every byte operation that raises no error (R137, R222). -/
def advance (p : Params) (s : State) : State :=
  if s.pos.toNat = p.pktSize - 1 then setPos 0 (setPhase .idle (emit .done s))
  else setPos (s.pos + 1) s

/-! ### How a meaning stops -/

/-- The meaning is defined in the row's context only; elsewhere it is stuck (log 4). -/
def inContext (c : Bool) (k : Res) : Res := if c then k else .fault .outOfContext

/-- Reads a register or view; reading "no value" is the model fault of R13 (log 3). -/
def withValue {α : Type} (o : Option α) (k : α → Res) : Res :=
  match o with
  | some v => k v
  | none => .fault .readNoValue

/-- The operand is one the row covers (log 6). -/
def operandOk (c : Bool) (k : Res) : Res := if c then k else .refused .illFormed

end Sys2Proof.Machine
end

