-- ==== Sys2Proof/Machine/Operands.lean ====
section
/-! DEFINITION. What the operations read: the header record and its views (30_encoding.md R100 to R103,
41_header_parser.md R165, 10_state.md R28), the region arithmetic (R104), and the contexts of the byte operations
(R94). -/

namespace Sys2Proof.Machine

/-! ### The header record -/

/-- `has_af = afc[1] = hdr[5]` (R102). -/
def hdrHasAf (h : HdrWord) : Bool := h.getLsbD 5

/-- `has_payload = afc[0] = hdr[4]` (R102). -/
def hdrHasPayload (h : HdrWord) : Bool := h.getLsbD 4

/-- The class of a PID (R103). -/
def pidClass (p : Params) (pid : Pid) : PidClass :=
  if pid = p.pidPat then .pat else if pid = p.pidNull then .stuff else .raw

/-- The header record with a class given. -/
def recordAs (h : HdrWord) (c : PidClass) : HdrRecord :=
  { tei := hdrTei h, pusi := hdrPusi h, prio := hdrPrio h, pid := hdrPid h, tsc := hdrTsc h, afc := hdrAfc h,
    cc := hdrCc h, hasAf := hdrHasAf h, hasPayload := hdrHasPayload h, pidClass := c }

/-- `record(h)` (R165). -/
def record (p : Params) (h : HdrWord) : HdrRecord := recordAs h (pidClass p (hdrPid h))

/-! ### Views of `hdr` (R28) -/

/-- The four lanes as a word, when all hold values. -/
def hdrWord (r : HdrReg) : Option HdrWord :=
  match r.lane0, r.lane1, r.lane2, r.lane3 with
  | some b0, some b1, some b2, some b3 => some (joinBytes b0 b1 b2 b3)
  | _, _, _, _ => none

/-- The header the views show: "defined when `hdr_valid = 1`, and `⊥` otherwise" (R28). -/
def viewWord (s : State) : Option HdrWord := if s.hdrValid then hdrWord s.hdr else none

/-- All ten views at once (R28, R165). -/
def viewRecord (p : Params) (s : State) : Option HdrRecord := (viewWord s).map (record p)

/-- The view `has_af`. -/
def viewHasAf (s : State) : Option Bool := (viewWord s).map hdrHasAf

/-- The view `has_payload`. -/
def viewHasPayload (s : State) : Option Bool := (viewWord s).map hdrHasPayload

/-- The view `afc`. -/
def viewAfc (s : State) : Option (BitVec 2) := (viewWord s).map hdrAfc

/-! ### Region arithmetic (R104) -/

/-- `af_total`: length byte and body. -/
def afTotal (hasAf : Bool) (len : Nat) : Nat := if hasAf then 1 + len else 0

/-- `pay_start`: the offset of the first payload byte. -/
def payStart (p : Params) (hasAf : Bool) (len : Nat) : Nat := p.hdrSize + afTotal hasAf len

/-- `pay_len`: the number of payload bytes. -/
def payLen (p : Params) (hasAf hasPayload : Bool) (len : Nat) : Nat :=
  if hasPayload then p.pktSize - payStart p hasAf len else 0

/-- The window tiles (20_memory.md R70). -/
def tiles (p : Params) (hasAf hasPayload : Bool) (len : Nat) : Bool :=
  if hasPayload then decide (payStart p hasAf len ≤ p.pktSize) else decide (payStart p hasAf len = p.pktSize)

/-! ### Contexts (R94) -/

/-- The context `(ph, n)`. -/
def atOffset (ph : Phase) (n : Nat) (s : State) : Bool := decide (s.phase = ph ∧ s.pos.toNat = n)

/-- The context `(ph, lo .. PKT_SIZE - 1)`. -/
def inRegion (p : Params) (ph : Phase) (lo : Nat) (s : State) : Bool :=
  decide (s.phase = ph ∧ lo ≤ s.pos.toNat ∧ s.pos.toNat < p.pktSize)

/-- The context of the header classes and PID classes, the step of `HB3` in which `h` becomes complete: `(HDR, 3)`
with window bytes 0 to 2 of `h` captured. -/
def completes (h : HdrWord) (s : State) : Bool :=
  atOffset .hdr 3 s && decide (s.hdr.lane0 = some (hdrByte h 0) ∧ s.hdr.lane1 = some (hdrByte h 1) ∧
    s.hdr.lane2 = some (hdrByte h 2))

end Sys2Proof.Machine
end

