-- ==== Sys2Proof/Machine/Flags.lean ====
section
/-! DEFINITION. The one stored flag, `hdr_valid` (10_state.md R27), and the flags that are functions of the state:
`err`, `err_kind` (R32 S2, 60_exceptions.md R247). There is no carry, zero, overflow or condition code (R29). -/

namespace Sys2Proof.Machine

/-- `hdr_valid <- 0`, at the first byte of a new window (R27, R160, R161). -/
def dropHeader (s : State) : State := setHdrValid false s

/-- `hdr_valid <- 1`, when `HB3` completes a header (R27, R164). -/
def validateHeader (s : State) : State := setHdrValid true s

/-- `err`: 1 iff `phase = ERR` (R32 S2). -/
def errFlag (s : State) : Bool := decide (s.phase = .err)

/-- The kind of a cause: I/O for `SOURCE_IO`, invalid-input for the others (R241, R247). -/
def Cause.isIo (c : Cause) : Bool :=
  match c with
  | .badSync => false
  | .truncated => false
  | .afOverrun => false
  | .residual => false
  | .sourceIo => true

/-- `err_kind`: 1 (I/O) iff `err_cause = 5` (R247); meaningful when `err = 1`, and 0 after reset (R32). -/
def errKind (s : State) : Bool :=
  match s.errCause with
  | some c => Cause.isIo c
  | none => false

end Sys2Proof.Machine
end

