-- ==== Sys2Proof/Machine/AfRegion.lean ====
section
/-! DEFINITION. The adaptation-field region (42_af_regions.md): the length byte with its three cases, and the body
bytes. -/

namespace Sys2Proof.Machine

/-! ### The length byte -/

/-- The context of the length byte, `(AFLEN, 4)`. -/
def atLengthByte (p : Params) (s : State) : Bool := atOffset .aflen p.hdrSize s

/-- `AFLEN.OVERRUN`, after `af_len <- L` (R191, R192). -/
def lengthOverrun (len : Byte) (s : State) : State := raise .afOverrun (setAfLen len s)

/-- `AFLEN.RESIDUAL`, after `af_len <- L` (R191, R193). -/
def lengthResidual (len : Byte) (s : State) : State := raise .residual (setAfLen len s)

/-- `AFLEN.OK`, after `af_len <- L` (R191, R194). -/
def lengthAccepted (p : Params) (len : Byte) (s : State) : State :=
  advance p (setPhase (if len = 0 then .payload else .af) (emit (.afLen len) (setAfRem len (setAfLen len s))))

/-- `AFLEN(b)` (R191): the overrun is tested first (D11). -/
def aflenOp (p : Params) (len : Byte) (s : State) : Res :=
  inContext (atLengthByte p s) <|
    if p.afLenMax < len.toNat then .next (lengthOverrun len s)
    else withValue (viewHasPayload s) fun hp =>
      if hp = false ∧ len.toNat < p.afLenMax then .next (lengthResidual len s)
      else .next (lengthAccepted p len s)

/-- Meaning of `AFLEN`. -/
def execAflen (len : Byte) (s : State) : Res := aflenOp Config.params len s

/-- Meaning of `AFLEN.OVERRUN`: the step of `AFLEN` for `L > 183` (log 5). -/
def execAflenOverrun (len : Byte) (s : State) : Res :=
  operandOk (decide (Config.params.afLenMax < len.toNat)) <|
    inContext (atLengthByte Config.params s) (.next (lengthOverrun len s))

/-- Meaning of `AFLEN.RESIDUAL`: the step of `AFLEN` for `L < 183` in a window without payload. -/
def execAflenResidual (len : Byte) (s : State) : Res :=
  operandOk (decide (len.toNat < Config.params.afLenMax)) <|
    inContext (atLengthByte Config.params s) <|
      withValue (viewHasPayload s) fun hp => inContext (!hp) (.next (lengthResidual len s))

/-- Meaning of `AFLEN.OK`: the step of `AFLEN` for an accepted length. -/
def execAflenOk (len : Byte) (s : State) : Res :=
  operandOk (decide (len.toNat ≤ Config.params.afLenMax)) <|
    inContext (atLengthByte Config.params s) <|
      withValue (viewHasPayload s) fun hp =>
        inContext (hp || len.toNat == Config.params.afLenMax) (.next (lengthAccepted Config.params len s))

/-! ### The body bytes -/

/-- The body of `AFBYTE(b)` with `af_rem` read as `r` (R196). -/
def bodyByte (p : Params) (b r : Byte) (s : State) : State :=
  let s1 := setAfRem (r - 1) (emit (.afByte b) s)
  advance p (if r = 1 ∧ s.pos.toNat < p.pktSize - 1 then setPhase .payload s1 else s1)

/-- `AFBYTE(b)` (R196), for `pos` in 5 to 187 and `af_rem` in 1 to 183. -/
def afbyteOp (p : Params) (b : Byte) (s : State) : Res :=
  inContext (inRegion p .af (p.hdrSize + 1) s) <|
    withValue s.afRem fun r =>
      inContext (decide (1 ≤ r.toNat ∧ r.toNat ≤ p.afLenMax)) (.next (bodyByte p b r s))

/-- Meaning of `AFBYTE`. -/
def execAfbyte (b : Byte) (s : State) : Res := afbyteOp Config.params b s

end Sys2Proof.Machine
end

