-- ==== Sys2Proof/Machine/Header.lean ====
section
/-! DEFINITION. The header parser (41_header_parser.md): the sync detector, the three header bytes, the four header
classes and the three PID classes. Operations take the parameters of R6; the meanings give them the hardware's. -/

namespace Sys2Proof.Machine

/-! ### The sync detector -/

/-- `SYNC(b)` (R160). -/
def syncOp (p : Params) (s : State) : Res :=
  inContext (atOffset .idle 0 s) (.next (advance p (setPhase .hdr (dropHeader (setLane0 p.syncByte s)))))

/-- `BADSYNC(b)` (R161): the wrong byte is captured. -/
def badSyncOp (b : Byte) (s : State) : Res :=
  inContext (atOffset .idle 0 s) (.next (raise .badSync (dropHeader (setLane0 b s))))

/-- Meaning of `SYNC`. -/
def execSync (s : State) : Res := syncOp Config.params s

/-- Meaning of `BADSYNC`: every byte that `SYNC` does not match. -/
def execBadsync (b : Byte) (s : State) : Res :=
  operandOk (b != Config.params.syncByte) (badSyncOp b s)

/-! ### The bit-field extractor -/

/-- `HB1(b)` (R162). -/
def hb1Op (p : Params) (b : Byte) (s : State) : Res :=
  inContext (atOffset .hdr 1 s) (.next (advance p (setLane1 b s)))

/-- `HB2(b)` (R163). -/
def hb2Op (p : Params) (b : Byte) (s : State) : Res :=
  inContext (atOffset .hdr 2 s) (.next (advance p (setLane2 b s)))

/-- The part of `HB3` common to all headers (R164): lane 3, the flag, and `Hdr` with the record given. -/
def commitHeader (h : HdrWord) (r : HdrRecord) (s : State) : State :=
  emit (.hdr r) (validateHeader (setLane3 (hdrByte h 3) s))

/-- `HDR.AFC01` continues `HB3` (R167). -/
def payloadOnly (p : Params) (s : State) : State := advance p (setPhase .payload s)

/-- `HDR.AFC10` continues `HB3` (R168). -/
def fieldOnly (p : Params) (s : State) : State := advance p (setPhase .aflen s)

/-- `HDR.AFC11` continues `HB3` (R169). -/
def fieldAndPayload (p : Params) (s : State) : State := advance p (setPhase .aflen s)

/-- `HDR.AFC00` continues `HB3` (R170, D9). -/
def neitherRegion (p : Params) (s : State) : State :=
  if p.afc00Residual then raise .residual s else advance p (setPhase .skip s)

/-- `case r.afc of` (R164). -/
def afterHeader (p : Params) (afc : BitVec 2) (s : State) : State :=
  if afc = 0b01 then payloadOnly p s
  else if afc = 0b10 then fieldOnly p s
  else if afc = 0b11 then fieldAndPayload p s
  else neitherRegion p s

/-- `HB3(b)` (R164). The word is made of lanes 0 to 2 and the byte of this step. -/
def hb3Op (p : Params) (b : Byte) (s : State) : Res :=
  inContext (atOffset .hdr 3 s) <|
    withValue s.hdr.lane0 fun b0 => withValue s.hdr.lane1 fun b1 => withValue s.hdr.lane2 fun b2 =>
      let h := joinBytes b0 b1 b2 b
      .next (afterHeader p (hdrAfc h) (commitHeader h (record p h) s))

/-- Meaning of `HB1`. -/
def execHb1 (tei pusi prio : Bit) (pidHi : BitVec 5) (s : State) : Res :=
  hb1Op Config.params (packByte1 tei pusi prio pidHi) s

/-- Meaning of `HB2`. -/
def execHb2 (pidLo : Byte) (s : State) : Res := hb2Op Config.params pidLo s

/-- Meaning of `HB3`. -/
def execHb3 (tsc afc : BitVec 2) (cc : BitVec 4) (s : State) : Res :=
  hb3Op Config.params (packByte3 tsc afc cc) s

/-! ### The header classes: the step of `HB3`, for a header of the row's class (log 5) -/

/-- The step that completes the header `h`, with its record and its continuation given by a row. -/
def headerStep (h : HdrWord) (r : HdrRecord) (continue_ : State → State) (s : State) : Res :=
  inContext (completes h s) (.next (continue_ (commitHeader h r s)))

/-- The header step of a class row: the record is R165's. -/
def classStep (p : Params) (h : HdrWord) (continue_ : State → State) (s : State) : Res :=
  headerStep h (record p h) continue_ s

/-- Meaning of `HDR.AFC00` (R170). -/
def execHdrAfc00 (tei pusi prio : Bit) (pid : Pid) (tsc : BitVec 2) (cc : BitVec 4) (s : State) : Res :=
  classStep Config.params (packHeader Config.params.syncByte tei pusi prio pid tsc 0b00 cc)
    (neitherRegion Config.params) s

/-- Meaning of `HDR.AFC01` (R167). -/
def execHdrAfc01 (tei pusi prio : Bit) (pid : Pid) (tsc : BitVec 2) (cc : BitVec 4) (s : State) : Res :=
  classStep Config.params (packHeader Config.params.syncByte tei pusi prio pid tsc 0b01 cc)
    (payloadOnly Config.params) s

/-- Meaning of `HDR.AFC10` (R168). -/
def execHdrAfc10 (tei pusi prio : Bit) (pid : Pid) (tsc : BitVec 2) (cc : BitVec 4) (s : State) : Res :=
  classStep Config.params (packHeader Config.params.syncByte tei pusi prio pid tsc 0b10 cc)
    (fieldOnly Config.params) s

/-- Meaning of `HDR.AFC11` (R169). -/
def execHdrAfc11 (tei pusi prio : Bit) (pid : Pid) (tsc : BitVec 2) (cc : BitVec 4) (s : State) : Res :=
  classStep Config.params (packHeader Config.params.syncByte tei pusi prio pid tsc 0b11 cc)
    (fieldAndPayload Config.params) s

/-! ### The PID classes: the step of `HB3`, with the class the row writes into the record (log 5) -/

/-- The header step of a PID row: `r.pid_class <- c`, the other values of the record and the continuation from the
header. -/
def pidStep (p : Params) (h : HdrWord) (c : PidClass) (s : State) : Res :=
  headerStep h (recordAs h c) (afterHeader p (hdrAfc h)) s

/-- Meaning of `PIDC.PAT` (R171): `r.pid_class <- 0`. -/
def execPidcPat (sync : Byte) (tei pusi prio : Bit) (tsc afc : BitVec 2) (cc : BitVec 4) (s : State) : Res :=
  pidStep Config.params (packHeader sync tei pusi prio Config.params.pidPat tsc afc cc) .pat s

/-- Meaning of `PIDC.STUFF` (R172): `r.pid_class <- 1`. -/
def execPidcStuff (sync : Byte) (tei pusi prio : Bit) (tsc afc : BitVec 2) (cc : BitVec 4) (s : State) : Res :=
  pidStep Config.params (packHeader sync tei pusi prio Config.params.pidNull tsc afc cc) .stuff s

/-- Meaning of `PIDC.RAW` (R173): `r.pid_class <- 2`, for every PID the other two rows do not match. -/
def execPidcRaw (sync : Byte) (tei pusi prio : Bit) (pid : Pid) (tsc afc : BitVec 2) (cc : BitVec 4) (s : State) :
    Res :=
  operandOk (pid != Config.params.pidPat && pid != Config.params.pidNull)
    (pidStep Config.params (packHeader sync tei pusi prio pid tsc afc cc) .raw s)

end Sys2Proof.Machine
end

