-- ==== Sys2Proof/Machine/Payload.lean ====
section
/-! DEFINITION. The payload region and the skip region (43_payload_done.md). `Done` is emitted by `advance` (R222). -/

namespace Sys2Proof.Machine

/-- `PAYBYTE(b)` (R220). -/
def paybyteOp (p : Params) (b : Byte) (s : State) : Res :=
  inContext (inRegion p .payload p.hdrSize s) (.next (advance p (emit (.payByte b) s)))

/-- Meaning of `PAYBYTE`. -/
def execPaybyte (b : Byte) (s : State) : Res := paybyteOp Config.params b s

/-- `SKIPBYTE(b)` (R221): the byte is dropped. Its phase is entered only when `P_AFC00_RESIDUAL` is false. -/
def skipbyteOp (p : Params) (_b : Byte) (s : State) : Res :=
  inContext (inRegion p .skip p.hdrSize s) (.next (advance p s))

/-- Meaning of `SKIPBYTE`. -/
def execSkipbyte (b : Byte) (s : State) : Res := skipbyteOp Config.params b s

end Sys2Proof.Machine
end

