-- ==== Sys2Proof/Machine/Framer.lean ====
section
/-! DEFINITION. The framer's six events (40_framer_events.md) and the event-level step function of R130, for any
parameters. In phase `ERR` the events `SRCERR`, `EOS` and `BYTE` act as `NOP` (10_state.md R42). -/

namespace Sys2Proof.Machine

/-- `NOP` (R136). -/
def nopOp (s : State) : State := s

/-- `SRCERR` (R133, R130). -/
def srcerrOp (s : State) : State := if s.phase = .err then nopOp s else raise .sourceIo s

/-- `EOS` (R134, R130): clean in `IDLE`, a truncation inside a window. -/
def eosOp (s : State) : State :=
  if s.phase = .err then nopOp s
  else if s.phase = .idle then emit .eos s
  else raise .truncated s

/-- `BYTE(b)` outside `ERR`: the operation of the context (R135). -/
def byteOp (p : Params) (b : Byte) (s : State) : Res :=
  match s.phase with
  | .idle => if b = p.syncByte then syncOp p s else badSyncOp b s
  | .hdr =>
    if s.pos = 1 then hb1Op p b s
    else if s.pos = 2 then hb2Op p b s
    else if s.pos = 3 then hb3Op p b s
    else .fault .outOfContext
  | .aflen => aflenOp p b s
  | .af => afbyteOp p b s
  | .payload => paybyteOp p b s
  | .skip => skipbyteOp p b s
  | .err => .next (nopOp s)

/-- The step function of R130 at the event level, for parameters `p`. -/
def react (p : Params) (ev : Event) (s : State) : Res :=
  match ev with
  | .reset => .next (resetRegisters s)
  | .clear => .next (returnToIdle s)
  | .srcerr => .next (srcerrOp s)
  | .eos => .next (eosOp s)
  | .byte b => byteOp p b s
  | .nop => .next (nopOp s)

/-- Meaning of `RESET`. -/
def execReset (s : State) : Res := .next (resetRegisters s)

/-- Meaning of `CLEAR`. -/
def execClear (s : State) : Res := .next (returnToIdle s)

/-- Meaning of `SRCERR`. -/
def execSrcerr (s : State) : Res := .next (srcerrOp s)

/-- Meaning of `EOS`. -/
def execEos (s : State) : Res := .next (eosOp s)

/-- Meaning of `BYTE`. -/
def execByte (b : Byte) (s : State) : Res := byteOp Config.params b s

/-- Meaning of `NOP`. -/
def execNop (s : State) : Res := .next (nopOp s)

end Sys2Proof.Machine
end

