-- ==== Sys2Proof/Machine/Dispatch.lean ====
section
/-! DEFINITION. One arm per operation. -/

namespace Sys2Proof.Machine

def exec (i : Instr) (s : State) : Host.Outcome State Fault Refusal :=
  match i with
  -- the framer's events
  | .reset => Sys2Proof.Machine.execReset s
  | .clear => Sys2Proof.Machine.execClear s
  | .srcerr => Sys2Proof.Machine.execSrcerr s
  | .eos => Sys2Proof.Machine.execEos s
  | .byte b => Sys2Proof.Machine.execByte b s
  | .nop => Sys2Proof.Machine.execNop s
  -- the header parser
  | .sync => Sys2Proof.Machine.execSync s
  | .badsync b => Sys2Proof.Machine.execBadsync b s
  | .hb1 tei pusi prio pidHi => Sys2Proof.Machine.execHb1 tei pusi prio pidHi s
  | .hb2 pidLo => Sys2Proof.Machine.execHb2 pidLo s
  | .hb3 tsc afc cc => Sys2Proof.Machine.execHb3 tsc afc cc s
  | .hdrAfc00 tei pusi prio pid tsc cc => Sys2Proof.Machine.execHdrAfc00 tei pusi prio pid tsc cc s
  | .hdrAfc01 tei pusi prio pid tsc cc => Sys2Proof.Machine.execHdrAfc01 tei pusi prio pid tsc cc s
  | .hdrAfc10 tei pusi prio pid tsc cc => Sys2Proof.Machine.execHdrAfc10 tei pusi prio pid tsc cc s
  | .hdrAfc11 tei pusi prio pid tsc cc => Sys2Proof.Machine.execHdrAfc11 tei pusi prio pid tsc cc s
  | .pidcPat sync tei pusi prio tsc afc cc => Sys2Proof.Machine.execPidcPat sync tei pusi prio tsc afc cc s
  | .pidcStuff sync tei pusi prio tsc afc cc => Sys2Proof.Machine.execPidcStuff sync tei pusi prio tsc afc cc s
  | .pidcRaw sync tei pusi prio pid tsc afc cc => Sys2Proof.Machine.execPidcRaw sync tei pusi prio pid tsc afc cc s
  -- the adaptation-field region
  | .aflen len => Sys2Proof.Machine.execAflen len s
  | .aflenOverrun len => Sys2Proof.Machine.execAflenOverrun len s
  | .aflenResidual len => Sys2Proof.Machine.execAflenResidual len s
  | .aflenOk len => Sys2Proof.Machine.execAflenOk len s
  | .afbyte b => Sys2Proof.Machine.execAfbyte b s
  -- the payload and skip regions
  | .paybyte b => Sys2Proof.Machine.execPaybyte b s
  | .skipbyte b => Sys2Proof.Machine.execSkipbyte b s

end Sys2Proof.Machine
end

