-- ==== Sys2Proof/Machine/Ports.lean ====
section
/-! DEFINITION. The ports and the status registers as functions of the state (10_state.md R32, R40, R43, R46,
60_exceptions.md R248, R256). A view the spec calls undefined is `none` (log 14). -/

namespace Sys2Proof.Machine

/-! ### Input side (R40, R91) -/

/-- `in_ready`: 1 iff `phase != ERR` and `rst = 0` and `clear = 0`. -/
def inReady (s : State) (x : PortIn) : Bool := decide (s.phase ≠ .err) && !x.rst && !x.clear

/-- A beat transfers when `in_valid = 1` and `in_ready = 1`. -/
def xfer (s : State) (x : PortIn) : Bool := x.inValid && inReady s x

/-- The event vector of a step (R91). -/
def evtVec (s : State) (x : PortIn) : EvtVec :=
  BitVec.ofBool x.rst ++ BitVec.ofBool x.clear ++ BitVec.ofBool (xfer s x) ++ BitVec.ofBool x.inErr ++
    BitVec.ofBool x.inEos

/-! ### Output side (R43): the ports in the step that led to `s` -/

/-- The byte an output event puts on `out_data`, with its `out_kind` (R43). -/
def OutEvent.portByte (e : OutEvent) : Option (BitVec 2 × Byte) :=
  match e with
  | .hdr _ => none
  | .afLen len => some (1, len)
  | .afByte b => some (2, b)
  | .payByte b => some (3, b)
  | .done => none
  | .eos => none
  | .err _ _ => none

/-- `Hdr` or not. -/
def OutEvent.isHdr (e : OutEvent) : Bool :=
  match e with
  | .hdr _ => true
  | .afLen _ => false
  | .afByte _ => false
  | .payByte _ => false
  | .done => false
  | .eos => false
  | .err _ _ => false

/-- `Err` or not. -/
def OutEvent.isErr (e : OutEvent) : Bool :=
  match e with
  | .hdr _ => false
  | .afLen _ => false
  | .afByte _ => false
  | .payByte _ => false
  | .done => false
  | .eos => false
  | .err _ _ => true

/-- `hdr_strobe`. -/
def hdrStrobe (s : State) : Bool := s.out.any OutEvent.isHdr

/-- The byte port: `out_kind` and `out_data` of the one byte event of the step. -/
def outByte (s : State) : Option (BitVec 2 × Byte) := s.out.findSome? OutEvent.portByte

/-- `out_valid`. -/
def outValid (s : State) : Bool := (outByte s).isSome

/-- `out_kind`, 0 when `out_valid = 0`. -/
def outKind (s : State) : BitVec 2 := ((outByte s).map Prod.fst).getD 0

/-- `out_data`; no value when `out_valid = 0` (93_implementation_defined.md U8). -/
def outData (s : State) : Option Byte := (outByte s).map Prod.snd

/-- `done`. -/
def doneStrobe (s : State) : Bool := s.out.contains .done

/-- `eos`. -/
def eosStrobe (s : State) : Bool := s.out.contains .eos

/-- `err_strobe`. -/
def errStrobe (s : State) : Bool := s.out.any OutEvent.isErr

/-! ### Codes and status registers (R21, R31, R32, R241) -/

/-- The 3-bit code of a phase (R21). -/
def phaseCode (ph : Phase) : BitVec 3 :=
  match ph with
  | .idle => 0
  | .hdr => 1
  | .aflen => 2
  | .af => 3
  | .payload => 4
  | .skip => 5
  | .err => 7

/-- The cause code, 0 for no error latched (R241). -/
def causeCode (c : Option Cause) : BitVec 3 :=
  match c with
  | none => 0
  | some .badSync => 1
  | some .truncated => 2
  | some .afOverrun => 3
  | some .residual => 4
  | some .sourceIo => 5

/-- The 2-bit class code; code 3 is never produced (R103). -/
def classCode (c : PidClass) : BitVec 2 :=
  match c with
  | .pat => 0
  | .stuff => 1
  | .raw => 2

/-- S0. -/
def statusS0 (s : State) : BitVec 3 := phaseCode s.phase

/-- S1. -/
def statusS1 (s : State) : Byte := s.pos

/-- S2: `err_cause` [4:2], `err_kind` [1], `err` [0]. -/
def statusS2 (s : State) : BitVec 5 :=
  causeCode s.errCause ++ BitVec.ofBool (errKind s) ++ BitVec.ofBool (errFlag s)

/-- The header fields of S3, bits [28:1], of a record. -/
def packRecord (r : HdrRecord) : BitVec 28 :=
  classCode r.pidClass ++ BitVec.ofBool r.hasPayload ++ BitVec.ofBool r.hasAf ++ r.cc ++ r.afc ++ r.tsc ++ r.pid ++
    r.prio ++ r.pusi ++ r.tei

/-- S3 bit [0], `hdr_valid`. -/
def statusS3Valid (s : State) : Bool := s.hdrValid

/-- S3 bits [28:1]; "defined when `hdr_valid = 1`". -/
def statusS3Fields (p : Params) (s : State) : Option (BitVec 28) := (viewRecord p s).map packRecord

/-- AFLEN has run in the window whose header the views show. DESIGN CHOICE (log 14): that window is the "current window"
of R32 also between windows, in `IDLE` after its `Done` and in the `ERR` that `SRCERR` enters there, until `hdr_valid` is
cleared. Within it AFLEN has not run while its length byte is awaited, nor when `EOS` or `SRCERR` came in its place. -/
def afLenDefined (s : State) : Bool :=
  decide (viewHasAf s = some true) &&
    match s.phase with
    | .aflen => false
    | .err => !decide (s.pos.toNat = 4 ∧ (s.errCause = some .truncated ∨ s.errCause = some .sourceIo))
    | .idle => true
    | .hdr => true
    | .af => true
    | .payload => true
    | .skip => true

/-- S4, the register `af_len`; "defined once AFLEN has run in the current window" (R32, 93_implementation_defined.md
U9), with the reading of "current window" of log 14. -/
def statusS4 (s : State) : Option Byte := if afLenDefined s then s.afLen else none

/-! ### Interrupt request lines (R256) -/

/-- The level `err`. -/
def irqErr (s : State) : Bool := errFlag s

/-- The pulse `done`. -/
def irqDone (s : State) : Bool := doneStrobe s

/-- The pulse `eos`. -/
def irqEos (s : State) : Bool := eosStrobe s

/-! ### Which sub-parser failed (R248) -/

/-- The sub-parsers of the source. -/
inductive SubParser where
  | headerParser
  | afParser
  | payloadDecoder
  | packetReader
deriving DecidableEq, Repr

/-- The sub-parser a cause names, from the offset `pos` it records and the state in which it was raised. R248 says
nothing of `SOURCE_IO`, nor of a truncation elsewhere than at the offsets it lists, which cannot occur. -/
def failedSubParser (c : Cause) (before : State) : Option SubParser :=
  match c with
  | .badSync => some .headerParser
  | .truncated =>
    if 1 ≤ before.pos.toNat ∧ before.pos.toNat ≤ 3 then some .headerParser
    else if before.pos.toNat = 4 ∧ viewHasAf before = some true then some .afParser
    else if before.phase = .af then some .afParser
    else some .payloadDecoder
  | .afOverrun => some .afParser
  | .residual => some .packetReader
  | .sourceIo => none

end Sys2Proof.Machine
end

