-- ==== Sys2Proof/Machine/Fetch.lean ====
section
/-! DEFINITION. What a step takes from the environment (log 1): the next sample of the input ports, the event it
decodes to, every row of the operation table the step matches, and the placing of a row's word. -/

namespace Sys2Proof.Machine

/-- The sample of a step in which nobody drives anything (10_state.md R41, `NOP`: "the blocking read has not returned
yet"). -/
def quietPorts : PortIn :=
  { rst := false, clear := false, inValid := false, inData := 0, inEos := false, inErr := false }

/-- The sample of the next step; where none is placed, nobody drives anything. -/
def nextSample (s : State) : PortIn := s.input.headD quietPorts

/-- The state the operation of the step starts from: its sample is taken and its output list is empty (R130). -/
def fetched (s : State) : State := { s with input := s.input.tail, out := [] }

/-- The event of the next step (R41, R92). -/
def nextEvent (s : State) : Event := decodeEvt (evtVec s (nextSample s)) (nextSample s).inData

/-- The sub-case rows of an operation of R94 in a state: the header class and the PID class of the header `HB3`
completes, the length case of `AFLEN`. -/
def subRows (p : Params) (i : Instr) (b : Byte) (s : State) : List Instr :=
  match i with
  | .hb3 _ _ _ =>
    match hdrWord { s.hdr with lane3 := some b } with
    | some h => (decodeClass p h).toOption.toList ++ [decodePid p h]
    | none => []
  | .aflen _ => if p.afLenMax < b.toNat then [decodeL8 p true b]
    else (viewHasPayload s).toList.map fun hp => decodeL8 p hp b
  | _ => []

/-- Every row of the operation table the next step matches, the event first and then finer ones (30_encoding.md
R92, R94, R98, R99, R103). -/
def rowsOf (p : Params) (s : State) : List Instr :=
  match nextEvent s with
  | .byte b =>
    .byte b :: match decodeB8 p s.phase s.pos b with
      | .ok i => i :: subRows p i b s
      | .error _ => []
  | ev => [ev.toInstr]

/-! ### Placing a row's word (log 16) -/

/-- The sample that carries an event vector and its data byte. -/
def sampleOfVec (e : EvtVec) (b : Byte) : PortIn :=
  { rst := e.getLsbD 4, clear := e.getLsbD 3, inValid := e.getLsbD 2, inData := b, inEos := e.getLsbD 0,
    inErr := e.getLsbD 1 }

/-- The sample of `BYTE(b)`. -/
def byteSample (b : Byte) : PortIn := sampleOfVec 0b00100 b

/-- The sample is placed as the next one. -/
def placeSample (x : PortIn) (s : State) : State := { s with input := x :: s.input }

/-- An event's word: a beat does not transfer in `ERR` (R40), so a state in `ERR` is first returned to `IDLE`. -/
def placeEvent (e : EvtVec) (b : Byte) (s : State) : State :=
  let s1 := if s.phase = .err ∧ e.getLsbD 2 = true ∧ e.getLsbD 3 = false ∧ e.getLsbD 4 = false
    then returnToIdle s else s
  placeSample (sampleOfVec e b) s1

/-- A stream byte read in the context after reset, `(IDLE, 0)`. -/
def placeFirstByte (b : Byte) (s : State) : State :=
  placeSample (byteSample b) (setErrCause none (setPos 0 (setPhase .idle s)))

/-- A header word: its bytes 0 to 2 stand captured, and its byte 3 is the next sample. -/
def placeHeader (h : HdrWord) (s : State) : State :=
  placeSample (byteSample (hdrByte h 3))
    (setLane2 (hdrByte h 2) (setLane1 (hdrByte h 1) (setLane0 (hdrByte h 0)
      (setErrCause none (setHdrValid false (setPos 3 (setPhase .hdr s)))))))

/-- The word of a row placed where the next step takes it, by the table `tableOfWord` reads it with. -/
def placeWord (nbits w : Nat) (s : State) : State :=
  match tableOfWord nbits w with
  | .evt => placeEvent (BitVec.ofNat 5 w) (BitVec.ofNat 8 (w / 256)) s
  | .b8 _ _ => placeFirstByte (BitVec.ofNat 8 w) s
  | .h32Class => placeHeader (BitVec.ofNat 32 w) s
  | .h32Pid => placeHeader (BitVec.ofNat 32 w) s
  | .l8 _ => s

end Sys2Proof.Machine
end

