-- ==== Sys2Proof/Machine/Step.lean ====
section
/-! DEFINITION. One step: the reaction to one input event (00_scope.md R15, 40_framer_events.md R130). -/

namespace Sys2Proof.Machine

/-- One step: take the sample, decode its event, run the event's operation from an empty output list. -/
def step (s : State) : Host.Outcome State Fault Refusal := exec (nextEvent s).toInstr (fetched s)

/-- `s` with a row's word as the next step's operation (log 16). -/
def State.withFetchWord (s : State) (nbits w : Nat) : State := placeWord nbits w s

end Sys2Proof.Machine
end

