-- ==== Sys2Proof/Machine/Notation.lean ====
section
/-! DEFINITION. The textual notation for streams as data (30_encoding.md R111, R112): a program is a list of lines, and
its meaning is the meaning of its expanded event list. -/

namespace Sys2Proof.Machine

/-- The fields of the pseudo-line `HEADER`; "a field left out is 0" (R112). -/
structure HeaderFields where
  tei : Bit := 0
  pusi : Bit := 0
  prio : Bit := 0
  pid : Pid := 0
  tsc : BitVec 2 := 0
  afc : BitVec 2 := 0
  cc : BitVec 4 := 0
deriving DecidableEq, Repr

/-- The header word a `HEADER` line encodes, byte 0 being `47`. -/
def HeaderFields.word (f : HeaderFields) : HdrWord :=
  packHeader 0x47 f.tei f.pusi f.prio f.pid f.tsc f.afc f.cc

/-- A line of a program: one event, or a pseudo-line (R111, R112). -/
inductive Line where
  /-- `RESET`, `CLEAR`, `EOS`, `SRCERR`, `NOP`, `BYTE xx`. -/
  | event (ev : Event)
  /-- `BYTES xx xx ...`. -/
  | bytes (bs : List Byte)
  /-- `FILL n xx`. -/
  | fill (n : Nat) (b : Byte)
  /-- `RAMP n xx`: the values `(0xxx + i) mod 256`. -/
  | ramp (n : Nat) (b : Byte)
  /-- `HEADER tei=t ...`. -/
  | header (f : HeaderFields)
  /-- `NULLPKT cc=c`. -/
  | nullpkt (cc : BitVec 4)
deriving DecidableEq, Repr

/-- The stream bytes of a pseudo-line; an event line other than `BYTE` has none. -/
def Line.streamBytes (l : Line) : List Byte :=
  match l with
  | .event (.byte b) => [b]
  | .event _ => []
  | .bytes bs => bs
  | .fill n b => List.replicate n b
  | .ramp n b => (List.range n).map fun i => b + BitVec.ofNat 8 i
  | .header f => splitBytes f.word
  | .nullpkt cc =>
    splitBytes (HeaderFields.word { pid := Config.params.pidNull, afc := 0b01, cc := cc }) ++ List.replicate 184 0xFF

/-- The events a line expands to. -/
def Line.events (l : Line) : List Event :=
  match l with
  | .event ev => [ev]
  | l => l.streamBytes.map Event.byte

/-- The event list of a program. -/
def programEvents (ls : List Line) : List Event := ls.flatMap Line.events

end Sys2Proof.Machine
end

