-- ==== Sys2Proof/Machine/Packet.lean ====
section
/-! DEFINITION. The packet record a caller is given, rebuilt from the output events of one window (10_state.md R44,
43_payload_done.md R226). -/

namespace Sys2Proof.Machine

/-- The source's packet: header, optional adaptation field, optional payload, and the decoder the payload is for. -/
structure Packet where
  tei : Bit
  pusi : Bit
  prio : Bit
  pid : Pid
  tsc : BitVec 2
  afc : BitVec 2
  cc : BitVec 4
  adaptation : Option (List Byte)
  payload : Option (List Byte)
  payloadClass : PidClass
deriving DecidableEq, Repr

/-- The leading `AfByte` events' bytes, and the events after them. -/
def takeAfBytes : List OutEvent → List Byte × List OutEvent
  | .afByte b :: rest => (b :: (takeAfBytes rest).1, (takeAfBytes rest).2)
  | evs => ([], evs)

/-- The leading `PayByte` events' bytes, and the events after them. -/
def takePayBytes : List OutEvent → List Byte × List OutEvent
  | .payByte b :: rest => (b :: (takePayBytes rest).1, (takePayBytes rest).2)
  | evs => ([], evs)

/-- The adaptation field of a window's events after `Hdr(r)`: `AfLen(L)` and `L` `AfByte`, iff `r.has_af`. -/
def readField (hasAf : Bool) (evs : List OutEvent) : Option (Option (List Byte) × List OutEvent) :=
  if hasAf then
    match evs with
    | .afLen len :: rest =>
      if (takeAfBytes rest).1.length = len.toNat then some (some (takeAfBytes rest).1, (takeAfBytes rest).2) else none
    | _ => none
  else some (none, evs)

/-- The payload of a window's events: the `PayByte` bytes, iff `r.has_payload`. -/
def readPayload (hasPayload : Bool) (evs : List OutEvent) : Option (List Byte) × List OutEvent :=
  if hasPayload then (some (takePayBytes evs).1, (takePayBytes evs).2) else (none, evs)

/-- The events without the `Eos` that stand before them. R226 cuts a run at `Done`, `Err`, `CLEAR` and `RESET` only, and
D13 lets an `EOS` in `IDLE` come before a window, so the events it takes can begin with `Eos`, of which it says nothing.
DESIGN CHOICE (log 17): such an `Eos` belongs to no packet. -/
def dropEos : List OutEvent → List OutEvent
  | .eos :: evs => dropEos evs
  | evs => evs

/-- The packet of the events that R226 takes, up to and including a `Done`; events that end otherwise are no packet.
`Eos` before the window is dropped (DESIGN CHOICE, log 17). -/
def packetOf (evs : List OutEvent) : Option Packet :=
  match dropEos evs with
  | .hdr r :: rest =>
    match readField r.hasAf rest with
    | some (af, rest') =>
      if (readPayload r.hasPayload rest').2 = [.done] then
        some { tei := r.tei, pusi := r.pusi, prio := r.prio, pid := r.pid, tsc := r.tsc, afc := r.afc, cc := r.cc,
               adaptation := af, payload := (readPayload r.hasPayload rest').1, payloadClass := r.pidClass }
      else none
    | none => none
  | _ => none

/-- The cut of R226 over the steps of a run, each an event with its output list; `held` are the events since the last
`Done`, `Err`, `CLEAR` or `RESET`. Each `Done` gives the packet of the events held; the other three drop them. -/
def packetsFrom (held : List OutEvent) : List (Event × List OutEvent) → List Packet
  | [] => []
  | (ev, outs) :: steps =>
    if ev = .reset ∨ ev = .clear ∨ outs.any OutEvent.isErr then packetsFrom [] steps
    else if outs.contains .done then (packetOf (held ++ outs)).toList ++ packetsFrom [] steps
    else packetsFrom (held ++ outs) steps

/-- The packets a caller is given over a run (R226). -/
def packetsOf (steps : List (Event × List OutEvent)) : List Packet := packetsFrom [] steps

end Sys2Proof.Machine
end

