-- ==== Sys2Proof/Safety.lean ====
section
/-! DEFINITION. What claims are stated in: the invariants of the reachable states (10_state.md R30), the outputs of a
run of steps, and a run without an error. -/

namespace Sys2Proof.Machine

/-! ### The invariants of R30, for parameters `p` -/

/-- The well-formedness predicate of R30: its nine items, in its order. -/
structure Inv (p : Params) (s : State) : Prop where
  /-- Item 1: `0 <= pos <= 187`. -/
  pos : s.pos.toNat < p.pktSize
  /-- Item 2: `phase = ERR` iff `err_cause != 0`. -/
  err : s.phase = .err ↔ s.errCause ≠ none
  /-- Item 3. -/
  idle : s.phase = .idle → s.pos = 0
  /-- Item 4. -/
  hdr : s.phase = .hdr → 1 ≤ s.pos.toNat ∧ s.pos.toNat ≤ 3 ∧ s.hdrValid = false ∧ s.hdr.lane0 = some p.syncByte ∧
    (2 ≤ s.pos.toNat → s.hdr.lane1 ≠ none) ∧ (3 ≤ s.pos.toNat → s.hdr.lane2 ≠ none)
  /-- Item 5. -/
  aflen : s.phase = .aflen → s.pos.toNat = p.hdrSize ∧ s.hdrValid = true ∧ viewHasAf s = some true
  /-- Item 6; `pos = 5 + af_len - af_rem`. -/
  af : s.phase = .af → s.hdrValid = true ∧ viewHasAf s = some true ∧
    ∃ r l : Byte, s.afRem = some r ∧ s.afLen = some l ∧ 1 ≤ r.toNat ∧ r.toNat ≤ l.toNat ∧ l.toNat ≤ p.afLenMax ∧
      s.pos.toNat + r.toNat = p.hdrSize + 1 + l.toNat ∧ (viewHasPayload s = some false → l.toNat = p.afLenMax)
  /-- Item 7. -/
  payload : s.phase = .payload → s.hdrValid = true ∧ viewHasPayload s = some true ∧
    ((viewHasAf s = some false ∧ payStart p false 0 ≤ s.pos.toNat) ∨
      (viewHasAf s = some true ∧ s.afRem = some 0 ∧
        ∃ l : Byte, s.afLen = some l ∧ l.toNat < p.afLenMax ∧ payStart p true l.toNat ≤ s.pos.toNat))
  /-- Item 8. -/
  skip : s.phase = .skip → p.afc00Residual = false ∧ s.hdrValid = true ∧ viewAfc s = some 0 ∧
    p.hdrSize ≤ s.pos.toNat
  /-- Item 9. -/
  valid : s.hdrValid = true → s.hdr.lane0 = some p.syncByte ∧ s.hdr.lane1 ≠ none ∧ s.hdr.lane2 ≠ none ∧
    s.hdr.lane3 ≠ none

/-! ### Runs -/

/-- `n` steps with all their output events in order; `none` if the model stops. -/
def runSteps : Nat → State → Option (State × List OutEvent)
  | 0, s => some (s, [])
  | n + 1, s =>
    match step s with
    | .next t => (runSteps n t).map fun r => (r.1, t.out ++ r.2)
    | .fault _ => none
    | .refused _ => none

/-- A run of the event-level step function of R130 for parameters `p`, its output events in order. -/
def runEvents (p : Params) : List Event → State → Option (State × List OutEvent)
  | [], s => some (s, [])
  | ev :: evs, s =>
    match react p ev { s with out := [] } with
    | .next t => (runEvents p evs t).map fun r => (r.1, t.out ++ r.2)
    | .fault _ => none
    | .refused _ => none

/-- The event a sample stands for when the phase is not looked at: its beat is taken to transfer unless a command
wins over it. In `ERR` the event so named acts as `NOP` (10_state.md R42). -/
def portEvent (x : PortIn) : Event :=
  decodeEvt (BitVec.ofBool x.rst ++ BitVec.ofBool x.clear ++ BitVec.ofBool (x.inValid && !x.rst && !x.clear) ++
    BitVec.ofBool x.inErr ++ BitVec.ofBool x.inEos) x.inData

/-- A run's result without what is left of the samples and without the last step's output list. -/
def registersAndOutput (r : State × List OutEvent) : State × List OutEvent :=
  ({ r.1 with input := [], out := [] }, r.2)

/-! ### The transition table of 40_framer_events.md R139 -/

/-- One cell of R139 for an event outside `ERR`: the next phase, the next `pos`, what is emitted. -/
structure Cell where
  phase : Phase
  pos : Byte
  out : List OutEvent
deriving DecidableEq, Repr

/-- `raise X` in a cell. -/
def Cell.raise (c : Cause) (pos : Byte) (before : List OutEvent) : Cell :=
  { phase := .err, pos := pos, out := before ++ [.err c pos] }

/-- The end of a region's cell: `p = 187` gives `Done`, `IDLE`, 0; else the phase given and `p + 1`. -/
def Cell.go (ph : Phase) (pos : Byte) (before : List OutEvent) : Cell :=
  if pos = 187 then { phase := .idle, pos := 0, out := before ++ [.done] }
  else { phase := ph, pos := pos + 1, out := before }

/-- The `BYTE(b)` column, read from the registers the cells name. -/
def byteCell (p : Params) (s : State) (b : Byte) : Cell :=
  match s.phase with
  | .idle => if b = 0x47 then { phase := .hdr, pos := 1, out := [] } else Cell.raise .badSync s.pos []
  | .hdr =>
    if s.pos = 3 then
      match hdrWord { s.hdr with lane3 := some b } with
      | some h =>
        let ev : OutEvent := .hdr (record p h)
        if hdrAfc h = 0b01 then { phase := .payload, pos := 4, out := [ev] }
        else if hdrAfc h = 0b00 then
          if p.afc00Residual then Cell.raise .residual s.pos [ev] else { phase := .skip, pos := 4, out := [ev] }
        else { phase := .aflen, pos := 4, out := [ev] }
      | none => { phase := .hdr, pos := s.pos, out := [] }
    else { phase := .hdr, pos := s.pos + 1, out := [] }
  | .aflen =>
    if 183 < b.toNat then Cell.raise .afOverrun s.pos []
    else if viewHasPayload s = some false ∧ b.toNat < 183 then Cell.raise .residual s.pos []
    else { phase := if 1 ≤ b.toNat then .af else .payload, pos := 5, out := [.afLen b] }
  | .af => Cell.go (if s.afRem = some 1 then .payload else .af) s.pos [.afByte b]
  | .payload => Cell.go .payload s.pos [.payByte b]
  | .skip => Cell.go .skip s.pos []
  | .err => { phase := .err, pos := s.pos, out := [] }

/-- The table of R139, with the lines it leaves out: `RESET` and `CLEAR` lead to `IDLE`, 0 and emit nothing, `NOP`
keeps the phase, and in `ERR` every other event is a `NOP`. -/
def tableCell (p : Params) (s : State) (ev : Event) : Cell :=
  let same : Cell := { phase := s.phase, pos := s.pos, out := [] }
  match ev with
  | .reset => { phase := .idle, pos := 0, out := [] }
  | .clear => { phase := .idle, pos := 0, out := [] }
  | .nop => same
  | .byte b => byteCell p s b
  | .eos =>
    if s.phase = .err then same
    else if s.phase = .idle then { phase := .idle, pos := 0, out := [.eos] }
    else Cell.raise .truncated s.pos []
  | .srcerr => if s.phase = .err then same else Cell.raise .sourceIo s.pos []

/-- A good run's state: no error is latched ("a model's fault bit is `err_cause != 0`", 60_exceptions.md R252). -/
def noErrorLatched (s : State) : Bool := s.errCause.isNone

/-- A window is about to start: the next byte is byte 0 (10_state.md R21). -/
abbrev AtWindowStart (s : State) : Prop := s.phase = .idle ∧ s.pos = 0

/-- The registers of R20, without the model's own two fields. -/
abbrev SameRegisters (s t : State) : Prop :=
  t.phase = s.phase ∧ t.pos = s.pos ∧ t.hdr = s.hdr ∧ t.hdrValid = s.hdrValid ∧ t.afLen = s.afLen ∧
    t.afRem = s.afRem ∧ t.errCause = s.errCause

end Sys2Proof.Machine
end

