-- ==== Sys2Proof/Certificates/Slice0/Obligations.lean ====
section
/-! DEFINITION. The statements for the provers. The parameters are the hardware's (`Config.params`) unless a
statement quantifies over the OPEN one (`Config.paramsWith v`). -/

open Sys2Proof Sys2Proof.Machine

/-! ### Encodings -/

/-- 30_encoding.md section 1.1 (the priority is the spec's own decision D3): exactly one row of the event table
matches every vector, and the decoder gives that row's event. -/
def Obligations.ExactlyOneEventRowMatches : Prop :=
  ∀ (e : EvtVec) (b : Byte),
    ((([(0b10000, 0b10000, .reset), (0b11000, 0b01000, .clear), (0b11110, 0b00110, .srcerr),
        (0b11111, 0b00101, .eos), (0b11111, 0b00100, .byte b), (0b11100, 0b00000, .nop)] :
        List (EvtVec × EvtVec × Event)).filter fun r => e &&& r.1 = r.2.1).map fun r => r.2.2) = [decodeEvt e b]

/-- Every well-formed operation, encoded and read back by any table that holds its row, is itself, and the bytes
after it are left. -/
def Obligations.DecodeOfEncodeIsTheOperation : Prop :=
  ∀ (i : Instr) (t : Table) (rest : List Byte), i.WellFormed → t.holds i = true →
    decode t (encode i ++ rest) = .ok (i, rest)

/-- What a table reads is a well-formed operation of a row the table holds, of the length its encoding has; outside
format `EVT`, whose don't-care bits are lost, the bytes read are its encoding. -/
def Obligations.DecodeGivesARowOfItsTable : Prop :=
  ∀ (t : Table) (bs rest : List Byte) (i : Instr), decode t bs = .ok (i, rest) →
    i.WellFormed ∧ t.holds i = true ∧ bs.length = (encode i).length + rest.length ∧
      (t ≠ .evt → bs = encode i ++ rest)

/-- Words written out from the encodings of 30_encoding.md and 95_test_vectors.md decode to what they stand for. -/
def Obligations.WordsOfTheSpecDecode : Prop :=
  decode .evt [0b10000] = .ok (.reset, []) ∧ decode .evt [0b01000] = .ok (.clear, []) ∧
    decode .evt [0b00110] = .ok (.srcerr, []) ∧ decode .evt [0b00101] = .ok (.eos, []) ∧
    decode .evt [0b00100, 0x47] = .ok (.byte 0x47, []) ∧ decode .evt [0b00000] = .ok (.nop, []) ∧
    decode (.b8 .idle 0) [0x47] = .ok (.sync, []) ∧ decode (.b8 .idle 0) [0x48] = .ok (.badsync 0x48, []) ∧
    decode (.b8 .hdr 1) [0x41] = .ok (.hb1 0 1 0 1, []) ∧ decode (.b8 .hdr 3) [0xD7] = .ok (.hb3 3 1 7, []) ∧
    decode .h32Class [0x47, 0x41, 0x00, 0x15] = .ok (.hdrAfc01 0 1 0 0x0100 0 5, []) ∧
    decode .h32Pid [0x47, 0x1F, 0xFB, 0x10] = .ok (.pidcRaw 0x47 0 0 0 0x1FFB 0 1 0, []) ∧
    decode (.l8 false) [0xB6] = .ok (.aflenResidual 182, []) ∧ decode (.l8 true) [0xB6] = .ok (.aflenOk 182, [])

/-- R101: the PID joins the low five bits of byte 1 and byte 2, big-endian, and is `hdr[20:8]`. -/
def Obligations.PidJoinsBytesOneAndTwo : Prop :=
  (∀ b0 b1 b2 b3 : Byte,
    hdrPid (joinBytes b0 b1 b2 b3) = ((b1.extractLsb' 0 5).setWidth 13 <<< 8 ||| b2.setWidth 13) ∧
      hdrPid (joinBytes b0 b1 b2 b3) = (joinBytes b0 b1 b2 b3).extractLsb' 8 13 ∧
      (hdrPid (joinBytes b0 b1 b2 b3)).toNat ≤ 8191) ∧
    hdrPid (joinBytes 0x47 0x41 0x00 0x10) = 0x0100 ∧ hdrPid (joinBytes 0x47 0x1F 0xFF 0x10) = 0x1FFF ∧
    hdrPid (joinBytes 0x47 0xFF 0xFB 0x10) = 0x1FFB

/-- 30_encoding.md section 1.3 (bit order: general knowledge of the spec, D5, log 8): each field as mask and shift on
the single bytes. -/
def Obligations.HeaderFieldsByMaskAndShift : Prop :=
  ∀ b0 b1 b2 b3 : Byte,
    (hdrSync (joinBytes b0 b1 b2 b3)).toNat = b0.toNat ∧
      (hdrTei (joinBytes b0 b1 b2 b3)).toNat = (b1.toNat >>> 7) &&& 1 ∧
      (hdrPusi (joinBytes b0 b1 b2 b3)).toNat = (b1.toNat >>> 6) &&& 1 ∧
      (hdrPrio (joinBytes b0 b1 b2 b3)).toNat = (b1.toNat >>> 5) &&& 1 ∧
      (hdrPid (joinBytes b0 b1 b2 b3)).toNat = ((b1.toNat &&& 0x1F) <<< 8) ||| b2.toNat ∧
      (hdrTsc (joinBytes b0 b1 b2 b3)).toNat = (b3.toNat >>> 6) &&& 3 ∧
      (hdrAfc (joinBytes b0 b1 b2 b3)).toNat = (b3.toNat >>> 4) &&& 3 ∧
      (hdrCc (joinBytes b0 b1 b2 b3)).toNat = b3.toNat &&& 0x0F

/-- R165, R102 and the source's round trip S8: the record of the header with given fields carries those fields, the
two booleans from their own bits, and the class of the PID. -/
def Obligations.RecordInvertsTheHeaderPacking : Prop :=
  ∀ (sync : Byte) (tei pusi prio : Bit) (pid : Pid) (tsc afc : BitVec 2) (cc : BitVec 4),
    record Config.params (packHeader sync tei pusi prio pid tsc afc cc) =
      { tei := tei, pusi := pusi, prio := prio, pid := pid, tsc := tsc, afc := afc, cc := cc,
        hasAf := afc.getLsbD 1, hasPayload := afc.getLsbD 0,
        pidClass := if pid = 0x0000 then .pat else if pid = 0x1FFF then .stuff else .raw }

/-- Model's numbering of the table (log 16): where a row's word decodes, the next step after placing it is the
operation it decodes to. -/
def Obligations.PlacedWordIsTheNextOperation : Prop :=
  ∀ (s : State) (nbits w : Nat) (i : Instr), decodeTableWord nbits w = some i →
    step (s.withFetchWord nbits w) = exec i (fetched (s.withFetchWord nbits w))

/-! ### The step -/

/-- A step takes one sample, decodes its event and runs that event's operation from an empty output list; with no
sample placed it is a `NOP` (model's input list, log 1). -/
def Obligations.StepRunsTheDecodedEvent : Prop :=
  ∀ s : State,
    (∀ (x : PortIn) (rest : List PortIn), s.input = x :: rest →
      step s = exec (decodeEvt (evtVec s x) x.inData).toInstr { s with input := rest, out := [] }) ∧
    (s.input = [] → step s = exec .nop { s with out := [] })

/-- Every row of the operation table that matches a step (its event, the operation of R94, the header class and PID
class of a header completed, the length case) is well formed and has that step's effect (log 5). -/
def Obligations.EveryMatchingRowIsTheStep : Prop :=
  ∀ (s : State) (i : Instr), i ∈ rowsOf Config.params s → i.WellFormed ∧ step s = exec i (fetched s)

/-- 10_state.md sections 9, 30_encoding.md section 1.1, 60_exceptions.md section 4 (decisions D2, D3): the event of a
step from the ports and the phase. -/
def Obligations.PortsGiveTheEventByPriority : Prop :=
  ∀ (s : State) (x : PortIn),
    (x.rst = true → decodeEvt (evtVec s x) x.inData = .reset) ∧
      (x.rst = false → x.clear = true → decodeEvt (evtVec s x) x.inData = .clear) ∧
      (x.rst = false → x.clear = false → x.inValid = true → s.phase ≠ .err →
        decodeEvt (evtVec s x) x.inData =
          if x.inErr then .srcerr else if x.inEos then .eos else .byte x.inData) ∧
      (x.rst = false → x.clear = false → (x.inValid = false ∨ s.phase = .err) →
        decodeEvt (evtVec s x) x.inData = .nop)

/-- 10_state.md R42 (decision D8): a run of steps over port samples has the registers and the output events of the
event-level run over the events the samples name, where `SRCERR`, `EOS` and `BYTE` in `ERR` act as `NOP`. -/
def Obligations.PortRunsRefineEventRuns : Prop :=
  ∀ (xs : List PortIn) (s : State), s.input = xs →
    (runSteps xs.length s).map registersAndOutput =
      (runEvents Config.params (xs.map portEvent) s).map registersAndOutput

/-! ### The framer's events -/

/-- 10_state.md section 8 and 40_framer_events.md section 2 (decision D16): `RESET` works from every state, gives the
registers of R36 (the data registers hold no value), and emits nothing. -/
def Obligations.ResetGivesTheResetRegisters : Prop :=
  ∀ s : State, exec .reset s = .next
    { phase := .idle, pos := 0, hdr := { lane0 := none, lane1 := none, lane2 := none, lane3 := none },
      hdrValid := false, afLen := none, afRem := none, errCause := none, input := s.input, out := s.out }

/-- 40_framer_events.md section 2, 60_exceptions.md section 3 (decision D17): `CLEAR` works from every state, leaves
`hdr`, `af_len` and `af_rem`, and emits nothing. -/
def Obligations.ClearReturnsToIdle : Prop :=
  ∀ s : State, exec .clear s = .next { s with phase := .idle, pos := 0, hdrValid := false, errCause := none }

/-- R133: `SRCERR` raises `SOURCE_IO`, of kind I/O, in every phase but `ERR`; a failed beat that is also flagged ended
is `SRCERR`. -/
def Obligations.SrcerrRaisesSourceIo : Prop :=
  (∀ b : Byte, decodeEvt 0b00110 b = .srcerr ∧ decodeEvt 0b00111 b = .srcerr) ∧
    ∀ s : State, s.phase ≠ .err → ∃ t : State, exec .srcerr s = .next t ∧
      t = { s with phase := .err, errCause := some .sourceIo, out := s.out ++ [.err .sourceIo s.pos] } ∧
      errKind t = true

/-- 40_framer_events.md section 2 (`EOS`; the part on a second `EOS` is decision D13): clean in `IDLE`, where nothing
changes, and `TRUNCATED` inside a window. -/
def Obligations.EosIsCleanOrTruncates : Prop :=
  (∀ s : State, s.phase = .idle → exec .eos s = .next { s with out := s.out ++ [.eos] }) ∧
    ∀ s : State, s.phase ≠ .idle → s.phase ≠ .err →
      exec .eos s = .next
        { s with phase := .err, errCause := some .truncated, out := s.out ++ [.err .truncated s.pos] }

/-- R136: `NOP` changes nothing and emits nothing; it is what every step is while nobody drives the ports, and what every
event but `RESET` and `CLEAR` is in `ERR`; any number of `NOP` events anywhere in a run changes neither the registers at
its end nor its output. -/
def Obligations.NopKeepsTheState : Prop :=
  (∀ (e : EvtVec) (b : Byte), e &&& 0b11100 = 0b00000 → decodeEvt e b = .nop) ∧
    (∀ s : State, exec .nop s = .next s) ∧
    (∀ (s : State) (x : PortIn), x.rst = false → x.clear = false → x.inValid = false →
      decodeEvt (evtVec s x) x.inData = .nop) ∧
    (∀ (s : State) (ev : Event), s.phase = .err → ev ≠ .reset → ev ≠ .clear → exec ev.toInstr s = .next s) ∧
    ∀ (v : Bool) (evs : List Event) (s : State),
      (runEvents (Config.paramsWith v) evs s).map registersAndOutput =
        (runEvents (Config.paramsWith v) (evs.filter fun ev => ev ≠ .nop) s).map registersAndOutput

/-- 30_encoding.md section 1.2 and 40_framer_events.md sections 1 and 2 (the context table is decision D6): a `BYTE` event is
the operation of its context. The value of the byte chooses at offset 0 only. -/
def Obligations.ByteRunsTheOperationOfItsContext : Prop :=
  ∀ (s : State) (b : Byte),
    (s.phase = .idle → s.pos = 0 →
      exec (.byte b) s = if b = 0x47 then exec .sync s else exec (.badsync b) s) ∧
    (s.phase = .hdr → s.pos = 1 →
      exec (.byte b) s = exec (.hb1 (b.extractLsb' 7 1) (b.extractLsb' 6 1) (b.extractLsb' 5 1)
        (b.extractLsb' 0 5)) s) ∧
    (s.phase = .hdr → s.pos = 2 → exec (.byte b) s = exec (.hb2 b) s) ∧
    (s.phase = .hdr → s.pos = 3 →
      exec (.byte b) s = exec (.hb3 (b.extractLsb' 6 2) (b.extractLsb' 4 2) (b.extractLsb' 0 4)) s) ∧
    (s.phase = .aflen → s.pos = 4 → exec (.byte b) s = exec (.aflen b) s) ∧
    (s.phase = .af → 5 ≤ s.pos.toNat → s.pos.toNat ≤ 187 → exec (.byte b) s = exec (.afbyte b) s) ∧
    (s.phase = .payload → 4 ≤ s.pos.toNat → s.pos.toNat ≤ 187 → exec (.byte b) s = exec (.paybyte b) s) ∧
    (s.phase = .skip → 4 ≤ s.pos.toNat → s.pos.toNat ≤ 187 → exec (.byte b) s = exec (.skipbyte b) s) ∧
    (s.phase = .err → exec (.byte b) s = .next s)

/-- 10_state.md section 2 (decisions D6, D24), on the states of R30: a `BYTE` step answers a next state; one that raises
no error moves `pos` up by one, or from 187 to 0 with `IDLE`; one that raises an error leaves `pos`. -/
def Obligations.ByteCompletesAndMovesPos : Prop :=
  ∀ (s : State) (b : Byte), Inv Config.params s → s.phase ≠ .err →
    ∃ t : State, exec (.byte b) s = .next t ∧
      (t.phase = .err → t.pos = s.pos) ∧
      (t.phase ≠ .err → s.pos ≠ 187 → t.pos.toNat = s.pos.toNat + 1) ∧
      (t.phase ≠ .err → s.pos = 187 → t.pos = 0 ∧ t.phase = .idle)

/-! ### The header parser -/

/-- R160. -/
def Obligations.SyncOpensAWindow : Prop :=
  (∀ b : Byte, decodeB8 Config.params .idle 0 b = .ok .sync ↔ b = 0x47) ∧
    ∀ s : State, s.phase = .idle → s.pos = 0 →
      exec .sync s = .next
        { s with hdr := { s.hdr with lane0 := some 0x47 }, hdrValid := false, phase := .hdr, pos := 1 }

/-- 41_header_parser.md section 1 (`BADSYNC`; raised at offset 0 by decision D7): the wrong byte is captured. -/
def Obligations.BadsyncRaisesAtOffsetZero : Prop :=
  ∀ (s : State) (b : Byte), s.phase = .idle → s.pos = 0 → b ≠ 0x47 →
    exec (.badsync b) s = .next
      { s with hdr := { s.hdr with lane0 := some b }, hdrValid := false, phase := .err, errCause := some .badSync,
               out := s.out ++ [.err .badSync 0] }

/-- 41_header_parser.md section 2 (`HB1`, `HB2`): window bytes 1 and 2 go to their lanes, whatever their value; nothing is
emitted. Where the fields of byte 1 stand in it is the bit order the spec presumes (decision D5, log 8). -/
def Obligations.HeaderBytesOneAndTwoAreCaptured : Prop :=
  (∀ (s : State) (tei pusi prio : Bit) (pidHi : BitVec 5), s.phase = .hdr → s.pos = 1 →
    ∃ b : Byte, exec (.hb1 tei pusi prio pidHi) s =
        .next { s with hdr := { s.hdr with lane1 := some b }, pos := 2 } ∧
      b.toNat = tei.toNat * 128 + pusi.toNat * 64 + prio.toNat * 32 + pidHi.toNat) ∧
    ∀ (s : State) (pidLo : Byte), s.phase = .hdr → s.pos = 2 →
      exec (.hb2 pidLo) s = .next { s with hdr := { s.hdr with lane2 := some pidLo }, pos := 3 }

/-- 41_header_parser.md section 2 (`HB3`): window byte 3 completes the header. In all four classes `hdr_valid` is set and `Hdr` is the first event emitted,
with the record of the word that has the byte of this step in lane 3; the classes with a region go on at offset 4, and
`afc = 00` raises `RESIDUAL`, the parameter being true in this hardware (decision D9, log 7). Where the fields stand in
byte 3 is the bit order the spec presumes (decision D5, log 8). -/
def Obligations.HbThreeCompletesTheHeader : Prop :=
  ∀ (s : State) (b0 b1 b2 : Byte) (tsc afc : BitVec 2) (cc : BitVec 4),
    s.phase = .hdr → s.pos = 3 → s.hdr.lane0 = some b0 → s.hdr.lane1 = some b1 → s.hdr.lane2 = some b2 →
    ∃ (t : State) (b3 : Byte) (more : List OutEvent), exec (.hb3 tsc afc cc) s = .next t ∧
      b3.toNat = tsc.toNat * 64 + afc.toNat * 16 + cc.toNat ∧
      t.hdr = { lane0 := some b0, lane1 := some b1, lane2 := some b2, lane3 := some b3 } ∧ t.hdrValid = true ∧
      t.out = s.out ++ .hdr (record Config.params (joinBytes b0 b1 b2 b3)) :: more ∧
      t.afLen = s.afLen ∧ t.afRem = s.afRem ∧ t.input = s.input ∧
      (afc = 0b01 → t.phase = .payload ∧ t.pos = 4 ∧ t.errCause = s.errCause ∧ more = []) ∧
      (afc = 0b10 ∨ afc = 0b11 → t.phase = .aflen ∧ t.pos = 4 ∧ t.errCause = s.errCause ∧ more = []) ∧
      (afc = 0b00 → t.phase = .err ∧ t.pos = 3 ∧ t.errCause = some .residual ∧ more = [.err .residual 3])

/-- R165: the record `HB3` emits is the ten values of the header word then held, and the views of the status outputs equal
it after the step. -/
def Obligations.ViewsEqualTheRecordAfterHbThree : Prop :=
  ∀ (s t : State) (tsc afc : BitVec 2) (cc : BitVec 4), exec (.hb3 tsc afc cc) s = .next t →
    ∃ (h : HdrWord) (r : HdrRecord) (more : List OutEvent),
      viewWord t = some h ∧ t.out = s.out ++ .hdr r :: more ∧ viewRecord Config.params t = some r ∧
        r.tei = h.extractLsb' 23 1 ∧ r.pusi = h.extractLsb' 22 1 ∧ r.prio = h.extractLsb' 21 1 ∧
        r.pid = h.extractLsb' 8 13 ∧ r.tsc = h.extractLsb' 6 2 ∧ r.afc = h.extractLsb' 4 2 ∧
        r.cc = h.extractLsb' 0 4 ∧ r.hasAf = h.getLsbD 5 ∧ r.hasPayload = h.getLsbD 4 ∧
        r.pidClass = if h.extractLsb' 8 13 = 0x0000 then .pat else if h.extractLsb' 8 13 = 0x1FFF then .stuff else .raw

/-- 41_header_parser.md section 3: the three header classes with a region. The record shows the class; `AFC01` goes to the
payload, `AFC10` and `AFC11` to the length byte. That a class row names `HB3`'s whole step is the model's choice
(log 5), and where the fields stand in byte 3 is the bit order the spec presumes (log 8). -/
def Obligations.HeaderClassesGoToTheirRegion : Prop :=
  ∀ (s : State) (tei pusi prio : Bit) (pid : Pid) (tsc : BitVec 2) (cc : BitVec 4),
    (completes (packHeader 0x47 tei pusi prio pid tsc 0b01 cc) s = true →
      exec (.hdrAfc01 tei pusi prio pid tsc cc) s = .next
        { s with hdr := { s.hdr with lane3 := some (packByte3 tsc 0b01 cc) }, hdrValid := true, phase := .payload,
                 pos := 4,
                 out := s.out ++ [.hdr { tei := tei, pusi := pusi, prio := prio, pid := pid, tsc := tsc, afc := 0b01,
                                         cc := cc, hasAf := false, hasPayload := true,
                                         pidClass := pidClass Config.params pid }] }) ∧
    (completes (packHeader 0x47 tei pusi prio pid tsc 0b10 cc) s = true →
      exec (.hdrAfc10 tei pusi prio pid tsc cc) s = .next
        { s with hdr := { s.hdr with lane3 := some (packByte3 tsc 0b10 cc) }, hdrValid := true, phase := .aflen,
                 pos := 4,
                 out := s.out ++ [.hdr { tei := tei, pusi := pusi, prio := prio, pid := pid, tsc := tsc, afc := 0b10,
                                         cc := cc, hasAf := true, hasPayload := false,
                                         pidClass := pidClass Config.params pid }] }) ∧
    (completes (packHeader 0x47 tei pusi prio pid tsc 0b11 cc) s = true →
      exec (.hdrAfc11 tei pusi prio pid tsc cc) s = .next
        { s with hdr := { s.hdr with lane3 := some (packByte3 tsc 0b11 cc) }, hdrValid := true, phase := .aflen,
                 pos := 4,
                 out := s.out ++ [.hdr { tei := tei, pusi := pusi, prio := prio, pid := pid, tsc := tsc, afc := 0b11,
                                         cc := cc, hasAf := true, hasPayload := true,
                                         pidClass := pidClass Config.params pid }] })

/-- 41_header_parser.md section 3 (`HDR.AFC00`, conflict C1, decision D9, log 7): the header is reported, then, with
the value this hardware has, `RESIDUAL` is raised at offset 3. That the row names `HB3`'s whole step is the model's
choice (log 5). -/
def Obligations.AfcNeitherRaisesResidual : Prop :=
  ∀ (s : State) (tei pusi prio : Bit) (pid : Pid) (tsc : BitVec 2) (cc : BitVec 4),
    completes (packHeader 0x47 tei pusi prio pid tsc 0b00 cc) s = true →
    exec (.hdrAfc00 tei pusi prio pid tsc cc) s = .next
      { s with hdr := { s.hdr with lane3 := some (packByte3 tsc 0b00 cc) }, hdrValid := true, phase := .err,
               errCause := some .residual,
               out := s.out ++ [.hdr { tei := tei, pusi := pusi, prio := prio, pid := pid, tsc := tsc, afc := 0b00,
                                       cc := cc, hasAf := false, hasPayload := false,
                                       pidClass := pidClass Config.params pid }, .err .residual 3] }

/-- 41_header_parser.md section 3, 43_payload_done.md section 1 (decision D9): with the OPEN parameter false, the same
header goes to `SKIP` at offset 4. -/
def Obligations.AfcNeitherSkipsWhenParameterFalse : Prop :=
  ∀ (s : State) (b0 b1 b2 b3 : Byte), s.phase = .hdr → s.pos = 3 → s.hdr.lane0 = some b0 → s.hdr.lane1 = some b1 →
    s.hdr.lane2 = some b2 → b3.extractLsb' 4 2 = 0b00 →
    react (Config.paramsWith false) (.byte b3) s = .next
      { s with hdr := { lane0 := some b0, lane1 := some b1, lane2 := some b2, lane3 := some b3 }, hdrValid := true,
               phase := .skip, pos := 4,
               out := s.out ++ [.hdr (record (Config.paramsWith false) (joinBytes b0 b1 b2 b3))] }

/-- 41_header_parser.md section 4: the record the header step emits carries the class of the PID row. That a PID row names
`HB3`'s whole step is the model's choice (log 5). -/
def Obligations.PidClassRowsReportTheirClass : Prop :=
  ∀ (s : State) (sync : Byte) (tei pusi prio : Bit) (pid : Pid) (tsc afc : BitVec 2) (cc : BitVec 4),
    completes (packHeader sync tei pusi prio pid tsc afc cc) s = true →
    ∃ (t : State) (more : List OutEvent) (c : PidClass), exec (.hb3 tsc afc cc) s = .next t ∧
      t.out = s.out ++ .hdr { tei := tei, pusi := pusi, prio := prio, pid := pid, tsc := tsc, afc := afc,
                              cc := cc, hasAf := afc.getLsbD 1, hasPayload := afc.getLsbD 0, pidClass := c } :: more ∧
      (pid = 0x0000 → exec (.pidcPat sync tei pusi prio tsc afc cc) s = .next t ∧ c = .pat ∧ classCode c = 0) ∧
      (pid = 0x1FFF → exec (.pidcStuff sync tei pusi prio tsc afc cc) s = .next t ∧ c = .stuff ∧ classCode c = 1) ∧
      (pid ≠ 0x0000 → pid ≠ 0x1FFF →
        exec (.pidcRaw sync tei pusi prio pid tsc afc cc) s = .next t ∧ c = .raw ∧ classCode c = 2)

/-! ### The adaptation-field region, the payload and skip regions -/

/-- 42_af_regions.md section 2: a length above 183 overruns, whatever `has_payload`; a length below 183 in a window without payload
leaves residual bytes. `af_len` shows the rejected value and `af_rem` is not written. That a length case names `AFLEN`'s
whole step is the model's choice (log 5). -/
def Obligations.AflenRejectsBadLengths : Prop :=
  ∀ (s : State) (len : Byte), s.phase = .aflen → s.pos = 4 →
    (183 < len.toNat →
      exec (.aflenOverrun len) s = .next
        { s with afLen := some len, phase := .err, errCause := some .afOverrun,
                 out := s.out ++ [.err .afOverrun 4] } ∧
        exec (.aflen len) s = exec (.aflenOverrun len) s) ∧
    (viewHasPayload s = some false → len.toNat < 183 →
      exec (.aflenResidual len) s = .next
        { s with afLen := some len, phase := .err, errCause := some .residual,
                 out := s.out ++ [.err .residual 4] } ∧
        exec (.aflen len) s = exec (.aflenResidual len) s)

/-- 42_af_regions.md section 2: an accepted length. That the row names `AFLEN`'s whole step is the model's choice
(log 5). -/
def Obligations.AflenOkAccepts : Prop :=
  ∀ (s : State) (len : Byte) (hp : Bool), s.phase = .aflen → s.pos = 4 → viewHasPayload s = some hp →
    len.toNat ≤ 183 → (hp = true ∨ len.toNat = 183) →
    exec (.aflenOk len) s = .next
      { s with afLen := some len, afRem := some len, phase := if len = 0 then .payload else .af, pos := 5,
               out := s.out ++ [.afLen len] } ∧
      exec (.aflen len) s = exec (.aflenOk len) s

/-- 42_af_regions.md section 2 and 30_encoding.md section 2: the length byte is accepted iff the window then tiles (R70),
and its region arithmetic is that of R104. -/
def Obligations.AflenAcceptsIffTheWindowTiles : Prop :=
  ∀ (s : State) (len : Byte) (hp : Bool), s.phase = .aflen → s.pos = 4 → viewHasPayload s = some hp →
    ∃ t : State, exec (.aflen len) s = .next t ∧ t.afLen = some len ∧
      (t.phase ≠ .err ↔ tiles Config.params true hp len.toNat = true) ∧
      (t.phase ≠ .err → payStart Config.params true len.toNat = 5 + len.toNat ∧
        4 + afTotal true len.toNat + payLen Config.params true hp len.toNat = 188)

/-- R196. -/
def Obligations.AfbytePassesOneBodyByte : Prop :=
  ∀ (s : State) (b r : Byte), s.phase = .af → 5 ≤ s.pos.toNat → s.pos.toNat ≤ 187 → s.afRem = some r →
    1 ≤ r.toNat → r.toNat ≤ 183 →
    exec (.afbyte b) s = .next
      (if s.pos = 187 then
        { s with afRem := some (r - 1), phase := .idle, pos := 0, out := s.out ++ [.afByte b, .done] }
      else
        { s with afRem := some (r - 1), phase := if r = 1 then .payload else .af, pos := s.pos + 1,
                 out := s.out ++ [.afByte b] })

/-- R220. -/
def Obligations.PaybytePassesOnePayloadByte : Prop :=
  ∀ (s : State) (b : Byte), s.phase = .payload → 4 ≤ s.pos.toNat → s.pos.toNat ≤ 187 →
    exec (.paybyte b) s = .next
      (if s.pos = 187 then { s with phase := .idle, pos := 0, out := s.out ++ [.payByte b, .done] }
      else { s with pos := s.pos + 1, out := s.out ++ [.payByte b] })

/-- 43_payload_done.md section 1 (`SKIPBYTE`, decision D9): the byte is dropped. -/
def Obligations.SkipbyteDropsOneByte : Prop :=
  ∀ (s : State) (b : Byte), s.phase = .skip → 4 ≤ s.pos.toNat → s.pos.toNat ≤ 187 →
    exec (.skipbyte b) s = .next
      (if s.pos = 187 then { s with phase := .idle, pos := 0, out := s.out ++ [.done] }
      else { s with pos := s.pos + 1 })

/-! ### Errors -/

/-- R242. -/
def Obligations.BadSyncRaisedExactlyOnAWrongFirstByte : Prop :=
  ∀ (s t : State) (ev : Event), Inv Config.params s → s.out = [] → exec ev.toInstr s = .next t →
    ((∃ p : Byte, .err .badSync p ∈ t.out) ↔ ∃ b : Byte, ev = .byte b ∧ s.phase = .idle ∧ b ≠ 0x47)

/-- R243: `TRUNCATED` is raised exactly by `EOS` inside a window, and `p` is the number of its bytes consumed. -/
def Obligations.TruncatedRaisedExactlyByEosInsideAWindow : Prop :=
  ∀ (s t : State) (ev : Event), Inv Config.params s → s.out = [] → exec ev.toInstr s = .next t →
    ((∃ p : Byte, .err .truncated p ∈ t.out) ↔
      ev = .eos ∧ (s.phase = .hdr ∨ s.phase = .aflen ∨ s.phase = .af ∨ s.phase = .payload ∨ s.phase = .skip)) ∧
    ∀ p : Byte, .err .truncated p ∈ t.out → p = s.pos ∧ 1 ≤ p.toNat ∧ p.toNat ≤ 187

/-- R244. -/
def Obligations.AfOverrunRaisedExactlyAboveTheBudget : Prop :=
  ∀ (s t : State) (ev : Event), Inv Config.params s → s.out = [] → exec ev.toInstr s = .next t →
    ((∃ p : Byte, .err .afOverrun p ∈ t.out) ↔
      ∃ b : Byte, ev = .byte b ∧ s.phase = .aflen ∧ viewHasAf s = some true ∧ 183 < b.toNat)

/-- R245, for either value `v` of the parameter `P_AFC00_RESIDUAL`: `RESIDUAL` at offset 3 for `afc = 00` if the parameter
is true, at offset 4 for a short field without payload, and never with a payload. -/
def Obligations.ResidualRaisedExactlyWhenBytesRemain : Prop :=
  ∀ (v : Bool) (s t : State) (ev : Event), Inv (Config.paramsWith v) s → s.out = [] →
    react (Config.paramsWith v) ev s = .next t →
    ((∃ p : Byte, .err .residual p ∈ t.out) ↔
      ∃ b : Byte, ev = .byte b ∧
        ((s.phase = .hdr ∧ s.pos = 3 ∧ b.extractLsb' 4 2 = 0b00 ∧ v = true) ∨
          (s.phase = .aflen ∧ viewAfc s = some 0b10 ∧ b.toNat < 183))) ∧
    (∀ p : Byte, .err .residual p ∈ t.out →
      p = s.pos ∧ (s.phase = .hdr → p = 3) ∧ (s.phase = .aflen → p = 4) ∧ viewHasPayload t = some false)

/-- R246. -/
def Obligations.SourceIoRaisedExactlyBySrcerr : Prop :=
  ∀ (s t : State) (ev : Event), Inv Config.params s → s.out = [] → exec ev.toInstr s = .next t →
    ((∃ p : Byte, .err .sourceIo p ∈ t.out) ↔ ev = .srcerr ∧ s.phase ≠ .err)

/-- R247: the kind is I/O iff the cause is `SOURCE_IO`, code 5. -/
def Obligations.ErrorKindIsIoExactlyForSourceIo : Prop :=
  ∀ s : State, (errKind s = true ↔ causeCode s.errCause = 5) ∧
    (1 ≤ (causeCode s.errCause).toNat → (causeCode s.errCause).toNat ≤ 4 → errKind s = false)

/-- 60_exceptions.md section 2 (decisions D8, D24): the step that enters `ERR` records one cause, keeps `pos`, and
emits `Err` last, with that cause and `pos`; only a completed header is emitted before it. -/
def Obligations.ErrorEntryIsPrecise : Prop :=
  ∀ (i : Instr) (s t : State), exec i s = .next t → s.phase ≠ .err → t.phase = .err →
    ∃ c : Cause, t.errCause = some c ∧ t.pos = s.pos ∧
      (t.out = s.out ++ [.err c s.pos] ∨
        ∃ r : HdrRecord, t.out = s.out ++ [.hdr r, .err c s.pos] ∧ c = .residual ∧ s.pos = 3 ∧ r.afc = 0b00)

/-- 60_exceptions.md sections 2 and 3 (decision D8): in `ERR` no operation but `RESET` and `CLEAR` changes anything, and
no run of other events changes or emits anything, so the first error stays. -/
def Obligations.ErrIsStickyUntilTheHostActs : Prop :=
  (∀ (i : Instr) (s t : State), s.phase = .err → i ≠ .reset → i ≠ .clear → exec i s = .next t → t = s) ∧
    ∀ (v : Bool) (evs : List Event) (s : State), s.phase = .err → (∀ ev ∈ evs, ev ≠ .reset ∧ ev ≠ .clear) →
      (runEvents (Config.paramsWith v) evs s).map registersAndOutput = some ({ s with input := [], out := [] }, [])

/-- 60_exceptions.md section 3 (R254, derived there from R252): a run without `RESET` and `CLEAR` emits at most one `Err`,
from whatever state it starts. -/
def Obligations.AtMostOneErrorUntilTheHostActs : Prop :=
  ∀ (v : Bool) (evs : List Event) (s t : State) (outs : List OutEvent), (∀ ev ∈ evs, ev ≠ .reset ∧ ev ≠ .clear) →
    runEvents (Config.paramsWith v) evs s = some (t, outs) → outs.countP OutEvent.isErr ≤ 1

/-! ### What operations leave unchanged -/

/-- 10_state.md sections 2 to 6 and 10 (decision D6): each register is written in the contexts of the operations listed
for it and nowhere else; events that carry no byte write no data register; the samples to come are never touched; the
output list grows by at most two events, at most one of them on the byte port. -/
def Obligations.RegistersAreWrittenOnlyInTheirContexts : Prop :=
  ∀ (i : Instr) (s t : State), exec i s = .next t →
    t.input = s.input ∧
    (∃ new : List OutEvent, t.out = s.out ++ new ∧ new.length ≤ 2 ∧
      (new.filterMap OutEvent.portByte).length ≤ 1) ∧
    (i ≠ .reset →
      (¬(s.phase = .idle ∧ s.pos = 0) → t.hdr.lane0 = s.hdr.lane0) ∧
      (¬(s.phase = .hdr ∧ s.pos = 1) → t.hdr.lane1 = s.hdr.lane1) ∧
      (¬(s.phase = .hdr ∧ s.pos = 2) → t.hdr.lane2 = s.hdr.lane2) ∧
      (¬(s.phase = .hdr ∧ s.pos = 3) → t.hdr.lane3 = s.hdr.lane3) ∧
      (s.phase ≠ .aflen → t.afLen = s.afLen) ∧
      (s.phase ≠ .aflen → s.phase ≠ .af → t.afRem = s.afRem) ∧
      (i ≠ .clear → s.phase ≠ .idle → ¬(s.phase = .hdr ∧ s.pos = 3) → t.hdrValid = s.hdrValid) ∧
      (i ≠ .clear → t.phase ≠ .err → t.errCause = s.errCause)) ∧
    (i = .clear ∨ i = .srcerr ∨ i = .eos ∨ i = .nop →
      t.hdr = s.hdr ∧ t.afLen = s.afLen ∧ t.afRem = s.afRem ∧
        (i ≠ .clear → t.pos = s.pos ∧ t.hdrValid = s.hdrValid))

/-- 43_payload_done.md section 2: `Done` is emitted exactly by the `BYTE` step at offset 187; it is then the last event,
the machine is back in `IDLE` at offset 0, and `hdr`, `hdr_valid` (1) and `af_len` stay. -/
def Obligations.DoneExactlyAtTheLastByte : Prop :=
  ∀ (s t : State) (ev : Event), Inv Config.params s → s.out = [] → exec ev.toInstr s = .next t →
    (.done ∈ t.out ↔ (∃ b : Byte, ev = .byte b) ∧ s.pos = 187 ∧ s.phase ≠ .err) ∧
    (.done ∈ t.out → t.phase = .idle ∧ t.pos = 0 ∧ t.out.getLast? = some .done ∧ t.hdr = s.hdr ∧
      t.hdrValid = true ∧ t.afLen = s.afLen)

/-- 10_state.md section 6 (packing for reference only, decision D19): the fields of S2 and S3 stand at their bits. -/
def Obligations.StatusRegistersShowTheState : Prop :=
  ∀ s : State,
    (statusS2 s).getLsbD 0 = errFlag s ∧ (statusS2 s).getLsbD 1 = errKind s ∧
      (statusS2 s).extractLsb' 2 3 = causeCode s.errCause ∧
      (s.hdrValid = false → statusS3Fields Config.params s = none) ∧
      ∀ h : HdrWord, viewWord s = some h → ∃ f : BitVec 28, statusS3Fields Config.params s = some f ∧
        f.extractLsb' 0 1 = hdrTei h ∧ f.extractLsb' 1 1 = hdrPusi h ∧ f.extractLsb' 2 1 = hdrPrio h ∧
        f.extractLsb' 3 13 = hdrPid h ∧ f.extractLsb' 16 2 = hdrTsc h ∧ f.extractLsb' 18 2 = hdrAfc h ∧
        f.extractLsb' 20 4 = hdrCc h ∧ f.getLsbD 24 = h.getLsbD 5 ∧ f.getLsbD 25 = h.getLsbD 4 ∧
        f.extractLsb' 26 2 = classCode (pidClass Config.params (hdrPid h))

/-! ### The whole machine -/

/-- The state after reset meets the invariants of R30, for either value of the OPEN parameter. -/
def Obligations.ResetMeetsTheInvariants : Prop :=
  ∀ v : Bool, Inv (Config.paramsWith v) State.reset

/-- 10_state.md section 5: every step keeps the nine invariants of R30, from every state that meets them. -/
def Obligations.EveryStepKeepsTheInvariants : Prop :=
  ∀ s t : State, Inv Config.params s → step s = .next t → Inv Config.params t

/-- The same for the event-level step function, for either value of the OPEN parameter (D9). -/
def Obligations.EveryEventKeepsTheInvariantsForEitherParameter : Prop :=
  ∀ (v : Bool) (ev : Event) (s t : State), Inv (Config.paramsWith v) s →
    react (Config.paramsWith v) ev s = .next t → Inv (Config.paramsWith v) t

/-- 00_scope.md sections 5 and 6: from every state that meets the invariants a step answers a next state, so no rule reads a
register that holds no value, for either value of the OPEN parameter. -/
def Obligations.NoStepStops : Prop :=
  (∀ s : State, Inv Config.params s → ∃ t : State, step s = .next t) ∧
    ∀ (v : Bool) (ev : Event) (s : State), Inv (Config.paramsWith v) s →
      ∃ t : State, react (Config.paramsWith v) ev s = .next t

/-- 40_framer_events.md section 4: on the states of R30 the step function is the transition table, for either value of
the OPEN parameter. -/
def Obligations.StepFunctionIsTheTransitionTable : Prop :=
  ∀ (v : Bool) (ev : Event) (s : State), Inv (Config.paramsWith v) s → s.out = [] →
    ∃ t : State, react (Config.paramsWith v) ev s = .next t ∧
      ({ phase := t.phase, pos := t.pos, out := t.out } : Cell) = tableCell (Config.paramsWith v) s ev

/-- 20_memory.md section 7, 70_reset_and_hazards.md section 1: the outputs of a run from a window start do not depend on
`hdr`, `hdr_valid`, `af_len`, `af_rem` (nor on any other register) as they stood there; so `RESET` and `CLEAR` cannot
be told apart by outputs. -/
def Obligations.WindowsAreIndependentOfEarlierState : Prop :=
  ∀ (v : Bool) (evs : List Event) (s1 s2 : State), AtWindowStart s1 → AtWindowStart s2 →
    (runEvents (Config.paramsWith v) evs s1).map Prod.snd = (runEvents (Config.paramsWith v) evs s2).map Prod.snd

/-- 40_framer_events.md section 5: from a window start, 188 bytes that raise no error emit `Done` exactly once, as the
last event, and fewer bytes emit none. -/
def Obligations.WindowTilesExactly : Prop :=
  ∀ (v : Bool) (bs : List Byte) (s t : State) (evs : List OutEvent), AtWindowStart s →
    runEvents (Config.paramsWith v) (bs.map Event.byte) s = some (t, evs) →
    (∀ e ∈ evs, OutEvent.isErr e = false) →
    (bs.length < 188 → .done ∉ evs) ∧
      (bs.length = 188 → evs.count .done = 1 ∧ evs.getLast? = some .done ∧ AtWindowStart t)

/-- 43_payload_done.md section 2 and S1, for either value of the OPEN parameter: a payload-only window gives its header,
its 184 payload bytes unchanged and in order, and `Done`. -/
def Obligations.PayloadOnlyWindowOutputs : Prop :=
  ∀ (v : Bool) (s : State) (b1 b2 b3 : Byte) (pay : List Byte), AtWindowStart s → b3.extractLsb' 4 2 = 0b01 →
    pay.length = 184 →
    ∃ t : State, runEvents (Config.paramsWith v) ((0x47 :: b1 :: b2 :: b3 :: pay).map Event.byte) s =
      some (t, .hdr (record (Config.paramsWith v) (joinBytes 0x47 b1 b2 b3)) :: pay.map OutEvent.payByte ++ [.done]) ∧
      AtWindowStart t

/-- 42_af_regions.md section 3, 43_payload_done.md section 2: a window with an adaptation field gives its header, the
length, exactly `L` body bytes, then, with payload, the `183 - L` payload bytes, in order, and `Done`; without payload
the field fills the window. -/
def Obligations.WindowWithAdaptationFieldOutputs : Prop :=
  ∀ (v : Bool) (s : State) (b1 b2 b3 len : Byte) (body pay : List Byte), AtWindowStart s →
    (b3.extractLsb' 4 2 = 0b11 ∨ (b3.extractLsb' 4 2 = 0b10 ∧ pay = [])) → body.length = len.toNat →
    body.length + pay.length = 183 →
    ∃ t : State,
      runEvents (Config.paramsWith v) ((0x47 :: b1 :: b2 :: b3 :: len :: (body ++ pay)).map Event.byte) s =
        some (t, .hdr (record (Config.paramsWith v) (joinBytes 0x47 b1 b2 b3)) :: .afLen len ::
          (body.map OutEvent.afByte ++ pay.map OutEvent.payByte) ++ [.done]) ∧ AtWindowStart t

/-- 43_payload_done.md section 1 (decision D9): with the OPEN parameter false a window with neither region is skipped. -/
def Obligations.SkippedWindowOutputs : Prop :=
  ∀ (s : State) (b1 b2 b3 : Byte) (skipped : List Byte), AtWindowStart s → b3.extractLsb' 4 2 = 0b00 →
    skipped.length = 184 →
    ∃ t : State, runEvents (Config.paramsWith false) ((0x47 :: b1 :: b2 :: b3 :: skipped).map Event.byte) s =
      some (t, [.hdr (record (Config.paramsWith false) (joinBytes 0x47 b1 b2 b3)), .done]) ∧ AtWindowStart t

/-- 60_exceptions.md section 1 and S4: a stream that ends after `k` bytes of a window, 1 to 187, none of which raised an
error, is a truncation that records `k`. -/
def Obligations.TruncationRecordsTheBytesConsumed : Prop :=
  ∀ (v : Bool) (bs : List Byte) (s t : State) (evs : List OutEvent), AtWindowStart s → 1 ≤ bs.length →
    bs.length ≤ 187 → runEvents (Config.paramsWith v) (bs.map Event.byte) s = some (t, evs) →
    (∀ e ∈ evs, OutEvent.isErr e = false) →
    ∃ u : State, runEvents (Config.paramsWith v) (bs.map Event.byte ++ [.eos]) s =
      some (u, evs ++ [.err .truncated (BitVec.ofNat 8 bs.length)]) ∧ u.phase = .err ∧
      u.errCause = some .truncated ∧ u.pos.toNat = bs.length

/-- 43_payload_done.md section 3: the packet a caller is given is rebuilt from the events of a window. -/
def Obligations.PacketIsRebuiltFromTheEvents : Prop :=
  ∀ (r : HdrRecord) (len : Byte) (body pay : List Byte), body.length = len.toNat →
    packetOf (.hdr r :: ((if r.hasAf then .afLen len :: body.map OutEvent.afByte else []) ++
      (if r.hasPayload then pay.map OutEvent.payByte else []) ++ [.done])) =
      some { tei := r.tei, pusi := r.pusi, prio := r.prio, pid := r.pid, tsc := r.tsc, afc := r.afc, cc := r.cc,
             adaptation := if r.hasAf then some body else none,
             payload := if r.hasPayload then some pay else none, payloadClass := r.pidClass }

/-- S8 of 95_test_vectors.md and 30_encoding.md section 5: from a window start the lines `HEADER` and `NULLPKT` of the
notation are read back as the fields they were written with; `NULLPKT` is a whole stuffing packet. -/
def Obligations.HeaderLinesAreReadBack : Prop :=
  (∀ (v : Bool) (s : State) (f : HeaderFields), AtWindowStart s →
    ∃ (t : State) (more : List OutEvent), runEvents (Config.paramsWith v) (Line.header f).events s =
      some (t, .hdr { tei := f.tei, pusi := f.pusi, prio := f.prio, pid := f.pid, tsc := f.tsc, afc := f.afc,
                      cc := f.cc, hasAf := f.afc.getLsbD 1, hasPayload := f.afc.getLsbD 0,
                      pidClass := if f.pid = 0x0000 then .pat else if f.pid = 0x1FFF then .stuff else .raw } :: more) ∧
      (∀ e ∈ more, e = .err .residual 3)) ∧
    ∀ (v : Bool) (s : State) (cc : BitVec 4), AtWindowStart s →
      ∃ t : State, runEvents (Config.paramsWith v) (Line.nullpkt cc).events s =
        some (t, .hdr { tei := 0, pusi := 0, prio := 0, pid := 0x1FFF, tsc := 0, afc := 0b01, cc := cc, hasAf := false,
                        hasPayload := true, pidClass := .stuff } ::
          List.replicate 184 (.payByte 0xFF) ++ [.done]) ∧ AtWindowStart t
end

