-- ==== Sys2Proof/Laws/Fields.lean ====
section
/-! SUPPORT. The bit fields of a header word and the bytes of a header are read back as they were packed, and packed
back as they were read. -/

namespace Sys2Proof

section join
variable (b0 b1 b2 b3 : Byte)

theorem hdrByte_join0 : hdrByte (joinBytes b0 b1 b2 b3) 0 = b0 := by
  apply BitVec.eq_of_getLsbD_eq; intro i hi; interval_cases i <;> simp only [hdrByte, joinBytes, BitVec.getLsbD_extractLsb', BitVec.getLsbD_append] <;> simp
theorem hdrByte_join1 : hdrByte (joinBytes b0 b1 b2 b3) 1 = b1 := by
  apply BitVec.eq_of_getLsbD_eq; intro i hi; interval_cases i <;> simp only [hdrByte, joinBytes, BitVec.getLsbD_extractLsb', BitVec.getLsbD_append] <;> simp
theorem hdrByte_join2 : hdrByte (joinBytes b0 b1 b2 b3) 2 = b2 := by
  apply BitVec.eq_of_getLsbD_eq; intro i hi; interval_cases i <;> simp only [hdrByte, joinBytes, BitVec.getLsbD_extractLsb', BitVec.getLsbD_append] <;> simp
theorem hdrByte_join3 : hdrByte (joinBytes b0 b1 b2 b3) 3 = b3 := by
  apply BitVec.eq_of_getLsbD_eq; intro i hi; interval_cases i <;> simp only [hdrByte, joinBytes, BitVec.getLsbD_extractLsb', BitVec.getLsbD_append] <;> simp

end join

/-- The four bytes of a word join to the word. -/
theorem join_hdrByte (h : HdrWord) : joinBytes (hdrByte h 0) (hdrByte h 1) (hdrByte h 2) (hdrByte h 3) = h := by
  apply BitVec.eq_of_getLsbD_eq; intro i hi; interval_cases i <;> simp only [hdrByte, joinBytes, BitVec.getLsbD_extractLsb', BitVec.getLsbD_append] <;> simp

section pack
variable (sync : Byte) (tei pusi prio : Bit) (pid : Pid) (tsc afc : BitVec 2) (cc : BitVec 4)

theorem hdrSync_pack : hdrSync (packHeader sync tei pusi prio pid tsc afc cc) = sync := by
  apply BitVec.eq_of_getLsbD_eq; intro i hi; interval_cases i <;> simp only [hdrSync, packHeader, BitVec.getLsbD_extractLsb', BitVec.getLsbD_append] <;> simp
theorem hdrTei_pack : hdrTei (packHeader sync tei pusi prio pid tsc afc cc) = tei := by
  apply BitVec.eq_of_getLsbD_eq; intro i hi; interval_cases i; simp only [hdrTei, packHeader, BitVec.getLsbD_extractLsb', BitVec.getLsbD_append]; simp
theorem hdrPusi_pack : hdrPusi (packHeader sync tei pusi prio pid tsc afc cc) = pusi := by
  apply BitVec.eq_of_getLsbD_eq; intro i hi; interval_cases i; simp only [hdrPusi, packHeader, BitVec.getLsbD_extractLsb', BitVec.getLsbD_append]; simp
theorem hdrPrio_pack : hdrPrio (packHeader sync tei pusi prio pid tsc afc cc) = prio := by
  apply BitVec.eq_of_getLsbD_eq; intro i hi; interval_cases i; simp only [hdrPrio, packHeader, BitVec.getLsbD_extractLsb', BitVec.getLsbD_append]; simp
theorem hdrPid_pack : hdrPid (packHeader sync tei pusi prio pid tsc afc cc) = pid := by
  apply BitVec.eq_of_getLsbD_eq; intro i hi; interval_cases i <;> simp only [hdrPid, packHeader, BitVec.getLsbD_extractLsb', BitVec.getLsbD_append] <;> simp
theorem hdrTsc_pack : hdrTsc (packHeader sync tei pusi prio pid tsc afc cc) = tsc := by
  apply BitVec.eq_of_getLsbD_eq; intro i hi; interval_cases i <;> simp only [hdrTsc, packHeader, BitVec.getLsbD_extractLsb', BitVec.getLsbD_append] <;> simp
theorem hdrAfc_pack : hdrAfc (packHeader sync tei pusi prio pid tsc afc cc) = afc := by
  apply BitVec.eq_of_getLsbD_eq; intro i hi; interval_cases i <;> simp only [hdrAfc, packHeader, BitVec.getLsbD_extractLsb', BitVec.getLsbD_append] <;> simp
theorem hdrCc_pack : hdrCc (packHeader sync tei pusi prio pid tsc afc cc) = cc := by
  apply BitVec.eq_of_getLsbD_eq; intro i hi; interval_cases i <;> simp only [hdrCc, packHeader, BitVec.getLsbD_extractLsb', BitVec.getLsbD_append] <;> simp

/-- Window byte 3 of a packed header. -/
theorem hdrByte3_pack : hdrByte (packHeader sync tei pusi prio pid tsc afc cc) 3 = packByte3 tsc afc cc := by
  apply BitVec.eq_of_getLsbD_eq; intro i hi; interval_cases i <;> simp only [hdrByte, packHeader, packByte3, BitVec.getLsbD_extractLsb', BitVec.getLsbD_append] <;> simp

end pack

/-- A header word is the packing of its fields. -/
theorem pack_fields (h : HdrWord) :
    packHeader (hdrSync h) (hdrTei h) (hdrPusi h) (hdrPrio h) (hdrPid h) (hdrTsc h) (hdrAfc h) (hdrCc h) = h := by
  apply BitVec.eq_of_getLsbD_eq; intro i hi
  interval_cases i <;>
    simp only [hdrSync, hdrTei, hdrPusi, hdrPrio, hdrPid, hdrTsc, hdrAfc, hdrCc, packHeader, BitVec.getLsbD_extractLsb', BitVec.getLsbD_append] <;> simp

/-- Window byte 1 is the packing of its fields (R162). -/
theorem pack_byte1 (b : Byte) :
    packByte1 (b.extractLsb' 7 1) (b.extractLsb' 6 1) (b.extractLsb' 5 1) (b.extractLsb' 0 5) = b := by
  apply BitVec.eq_of_getLsbD_eq; intro i hi; interval_cases i <;> simp only [packByte1, BitVec.getLsbD_extractLsb', BitVec.getLsbD_append] <;> simp

/-- Window byte 3 is the packing of its fields (R164). -/
theorem pack_byte3 (b : Byte) :
    packByte3 (b.extractLsb' 6 2) (b.extractLsb' 4 2) (b.extractLsb' 0 4) = b := by
  apply BitVec.eq_of_getLsbD_eq; intro i hi; interval_cases i <;> simp only [packByte3, BitVec.getLsbD_extractLsb', BitVec.getLsbD_append] <;> simp

/-- The fields of window byte 1, read back. -/
theorem byte1_fields (tei pusi prio : Bit) (pidHi : BitVec 5) :
    (packByte1 tei pusi prio pidHi).extractLsb' 7 1 = tei ∧ (packByte1 tei pusi prio pidHi).extractLsb' 6 1 = pusi ∧
      (packByte1 tei pusi prio pidHi).extractLsb' 5 1 = prio ∧
      (packByte1 tei pusi prio pidHi).extractLsb' 0 5 = pidHi := by
  refine ⟨?_, ?_, ?_, ?_⟩ <;>
    (apply BitVec.eq_of_getLsbD_eq; intro i hi; interval_cases i <;> simp only [packByte1, BitVec.getLsbD_extractLsb', BitVec.getLsbD_append] <;> simp)

/-- The fields of window byte 3, read back. -/
theorem byte3_fields (tsc afc : BitVec 2) (cc : BitVec 4) :
    (packByte3 tsc afc cc).extractLsb' 6 2 = tsc ∧ (packByte3 tsc afc cc).extractLsb' 4 2 = afc ∧
      (packByte3 tsc afc cc).extractLsb' 0 4 = cc := by
  refine ⟨?_, ?_, ?_⟩ <;>
    (apply BitVec.eq_of_getLsbD_eq; intro i hi; interval_cases i <;> simp only [packByte3, BitVec.getLsbD_extractLsb', BitVec.getLsbD_append] <;> simp)

end Sys2Proof
end

