-- ==== Sys2Proof/Laws/State.lean ====
section
/-! SUPPORT. What each register write, the taking of an error, the returns and the fetch do to each field of the
state, one lemma per field per update. -/

namespace Sys2Proof.Machine

/-! ### setPhase -/

@[simp] theorem setPhase_phase (ph : Phase) (s : State) : (setPhase ph s).phase = ph := rfl
@[simp] theorem setPhase_pos (ph : Phase) (s : State) : (setPhase ph s).pos = s.pos := rfl
@[simp] theorem setPhase_hdr (ph : Phase) (s : State) : (setPhase ph s).hdr = s.hdr := rfl
@[simp] theorem setPhase_hdrValid (ph : Phase) (s : State) : (setPhase ph s).hdrValid = s.hdrValid := rfl
@[simp] theorem setPhase_afLen (ph : Phase) (s : State) : (setPhase ph s).afLen = s.afLen := rfl
@[simp] theorem setPhase_afRem (ph : Phase) (s : State) : (setPhase ph s).afRem = s.afRem := rfl
@[simp] theorem setPhase_errCause (ph : Phase) (s : State) : (setPhase ph s).errCause = s.errCause := rfl
@[simp] theorem setPhase_input (ph : Phase) (s : State) : (setPhase ph s).input = s.input := rfl
@[simp] theorem setPhase_out (ph : Phase) (s : State) : (setPhase ph s).out = s.out := rfl

/-! ### setPos -/

@[simp] theorem setPos_phase (n : Byte) (s : State) : (setPos n s).phase = s.phase := rfl
@[simp] theorem setPos_pos (n : Byte) (s : State) : (setPos n s).pos = n := rfl
@[simp] theorem setPos_hdr (n : Byte) (s : State) : (setPos n s).hdr = s.hdr := rfl
@[simp] theorem setPos_hdrValid (n : Byte) (s : State) : (setPos n s).hdrValid = s.hdrValid := rfl
@[simp] theorem setPos_afLen (n : Byte) (s : State) : (setPos n s).afLen = s.afLen := rfl
@[simp] theorem setPos_afRem (n : Byte) (s : State) : (setPos n s).afRem = s.afRem := rfl
@[simp] theorem setPos_errCause (n : Byte) (s : State) : (setPos n s).errCause = s.errCause := rfl
@[simp] theorem setPos_input (n : Byte) (s : State) : (setPos n s).input = s.input := rfl
@[simp] theorem setPos_out (n : Byte) (s : State) : (setPos n s).out = s.out := rfl

/-! ### setLane0 -/

@[simp] theorem setLane0_phase (b : Byte) (s : State) : (setLane0 b s).phase = s.phase := rfl
@[simp] theorem setLane0_pos (b : Byte) (s : State) : (setLane0 b s).pos = s.pos := rfl
@[simp] theorem setLane0_hdr (b : Byte) (s : State) : (setLane0 b s).hdr = { s.hdr with lane0 := some b } := rfl
@[simp] theorem setLane0_hdrValid (b : Byte) (s : State) : (setLane0 b s).hdrValid = s.hdrValid := rfl
@[simp] theorem setLane0_afLen (b : Byte) (s : State) : (setLane0 b s).afLen = s.afLen := rfl
@[simp] theorem setLane0_afRem (b : Byte) (s : State) : (setLane0 b s).afRem = s.afRem := rfl
@[simp] theorem setLane0_errCause (b : Byte) (s : State) : (setLane0 b s).errCause = s.errCause := rfl
@[simp] theorem setLane0_input (b : Byte) (s : State) : (setLane0 b s).input = s.input := rfl
@[simp] theorem setLane0_out (b : Byte) (s : State) : (setLane0 b s).out = s.out := rfl

/-! ### setLane1 -/

@[simp] theorem setLane1_phase (b : Byte) (s : State) : (setLane1 b s).phase = s.phase := rfl
@[simp] theorem setLane1_pos (b : Byte) (s : State) : (setLane1 b s).pos = s.pos := rfl
@[simp] theorem setLane1_hdr (b : Byte) (s : State) : (setLane1 b s).hdr = { s.hdr with lane1 := some b } := rfl
@[simp] theorem setLane1_hdrValid (b : Byte) (s : State) : (setLane1 b s).hdrValid = s.hdrValid := rfl
@[simp] theorem setLane1_afLen (b : Byte) (s : State) : (setLane1 b s).afLen = s.afLen := rfl
@[simp] theorem setLane1_afRem (b : Byte) (s : State) : (setLane1 b s).afRem = s.afRem := rfl
@[simp] theorem setLane1_errCause (b : Byte) (s : State) : (setLane1 b s).errCause = s.errCause := rfl
@[simp] theorem setLane1_input (b : Byte) (s : State) : (setLane1 b s).input = s.input := rfl
@[simp] theorem setLane1_out (b : Byte) (s : State) : (setLane1 b s).out = s.out := rfl

/-! ### setLane2 -/

@[simp] theorem setLane2_phase (b : Byte) (s : State) : (setLane2 b s).phase = s.phase := rfl
@[simp] theorem setLane2_pos (b : Byte) (s : State) : (setLane2 b s).pos = s.pos := rfl
@[simp] theorem setLane2_hdr (b : Byte) (s : State) : (setLane2 b s).hdr = { s.hdr with lane2 := some b } := rfl
@[simp] theorem setLane2_hdrValid (b : Byte) (s : State) : (setLane2 b s).hdrValid = s.hdrValid := rfl
@[simp] theorem setLane2_afLen (b : Byte) (s : State) : (setLane2 b s).afLen = s.afLen := rfl
@[simp] theorem setLane2_afRem (b : Byte) (s : State) : (setLane2 b s).afRem = s.afRem := rfl
@[simp] theorem setLane2_errCause (b : Byte) (s : State) : (setLane2 b s).errCause = s.errCause := rfl
@[simp] theorem setLane2_input (b : Byte) (s : State) : (setLane2 b s).input = s.input := rfl
@[simp] theorem setLane2_out (b : Byte) (s : State) : (setLane2 b s).out = s.out := rfl

/-! ### setLane3 -/

@[simp] theorem setLane3_phase (b : Byte) (s : State) : (setLane3 b s).phase = s.phase := rfl
@[simp] theorem setLane3_pos (b : Byte) (s : State) : (setLane3 b s).pos = s.pos := rfl
@[simp] theorem setLane3_hdr (b : Byte) (s : State) : (setLane3 b s).hdr = { s.hdr with lane3 := some b } := rfl
@[simp] theorem setLane3_hdrValid (b : Byte) (s : State) : (setLane3 b s).hdrValid = s.hdrValid := rfl
@[simp] theorem setLane3_afLen (b : Byte) (s : State) : (setLane3 b s).afLen = s.afLen := rfl
@[simp] theorem setLane3_afRem (b : Byte) (s : State) : (setLane3 b s).afRem = s.afRem := rfl
@[simp] theorem setLane3_errCause (b : Byte) (s : State) : (setLane3 b s).errCause = s.errCause := rfl
@[simp] theorem setLane3_input (b : Byte) (s : State) : (setLane3 b s).input = s.input := rfl
@[simp] theorem setLane3_out (b : Byte) (s : State) : (setLane3 b s).out = s.out := rfl

/-! ### setHdrValid -/

@[simp] theorem setHdrValid_phase (v : Bool) (s : State) : (setHdrValid v s).phase = s.phase := rfl
@[simp] theorem setHdrValid_pos (v : Bool) (s : State) : (setHdrValid v s).pos = s.pos := rfl
@[simp] theorem setHdrValid_hdr (v : Bool) (s : State) : (setHdrValid v s).hdr = s.hdr := rfl
@[simp] theorem setHdrValid_hdrValid (v : Bool) (s : State) : (setHdrValid v s).hdrValid = v := rfl
@[simp] theorem setHdrValid_afLen (v : Bool) (s : State) : (setHdrValid v s).afLen = s.afLen := rfl
@[simp] theorem setHdrValid_afRem (v : Bool) (s : State) : (setHdrValid v s).afRem = s.afRem := rfl
@[simp] theorem setHdrValid_errCause (v : Bool) (s : State) : (setHdrValid v s).errCause = s.errCause := rfl
@[simp] theorem setHdrValid_input (v : Bool) (s : State) : (setHdrValid v s).input = s.input := rfl
@[simp] theorem setHdrValid_out (v : Bool) (s : State) : (setHdrValid v s).out = s.out := rfl

/-! ### setAfLen -/

@[simp] theorem setAfLen_phase (b : Byte) (s : State) : (setAfLen b s).phase = s.phase := rfl
@[simp] theorem setAfLen_pos (b : Byte) (s : State) : (setAfLen b s).pos = s.pos := rfl
@[simp] theorem setAfLen_hdr (b : Byte) (s : State) : (setAfLen b s).hdr = s.hdr := rfl
@[simp] theorem setAfLen_hdrValid (b : Byte) (s : State) : (setAfLen b s).hdrValid = s.hdrValid := rfl
@[simp] theorem setAfLen_afLen (b : Byte) (s : State) : (setAfLen b s).afLen = some b := rfl
@[simp] theorem setAfLen_afRem (b : Byte) (s : State) : (setAfLen b s).afRem = s.afRem := rfl
@[simp] theorem setAfLen_errCause (b : Byte) (s : State) : (setAfLen b s).errCause = s.errCause := rfl
@[simp] theorem setAfLen_input (b : Byte) (s : State) : (setAfLen b s).input = s.input := rfl
@[simp] theorem setAfLen_out (b : Byte) (s : State) : (setAfLen b s).out = s.out := rfl

/-! ### setAfRem -/

@[simp] theorem setAfRem_phase (b : Byte) (s : State) : (setAfRem b s).phase = s.phase := rfl
@[simp] theorem setAfRem_pos (b : Byte) (s : State) : (setAfRem b s).pos = s.pos := rfl
@[simp] theorem setAfRem_hdr (b : Byte) (s : State) : (setAfRem b s).hdr = s.hdr := rfl
@[simp] theorem setAfRem_hdrValid (b : Byte) (s : State) : (setAfRem b s).hdrValid = s.hdrValid := rfl
@[simp] theorem setAfRem_afLen (b : Byte) (s : State) : (setAfRem b s).afLen = s.afLen := rfl
@[simp] theorem setAfRem_afRem (b : Byte) (s : State) : (setAfRem b s).afRem = some b := rfl
@[simp] theorem setAfRem_errCause (b : Byte) (s : State) : (setAfRem b s).errCause = s.errCause := rfl
@[simp] theorem setAfRem_input (b : Byte) (s : State) : (setAfRem b s).input = s.input := rfl
@[simp] theorem setAfRem_out (b : Byte) (s : State) : (setAfRem b s).out = s.out := rfl

/-! ### setErrCause -/

@[simp] theorem setErrCause_phase (c : Option Cause) (s : State) : (setErrCause c s).phase = s.phase := rfl
@[simp] theorem setErrCause_pos (c : Option Cause) (s : State) : (setErrCause c s).pos = s.pos := rfl
@[simp] theorem setErrCause_hdr (c : Option Cause) (s : State) : (setErrCause c s).hdr = s.hdr := rfl
@[simp] theorem setErrCause_hdrValid (c : Option Cause) (s : State) : (setErrCause c s).hdrValid = s.hdrValid := rfl
@[simp] theorem setErrCause_afLen (c : Option Cause) (s : State) : (setErrCause c s).afLen = s.afLen := rfl
@[simp] theorem setErrCause_afRem (c : Option Cause) (s : State) : (setErrCause c s).afRem = s.afRem := rfl
@[simp] theorem setErrCause_errCause (c : Option Cause) (s : State) : (setErrCause c s).errCause = c := rfl
@[simp] theorem setErrCause_input (c : Option Cause) (s : State) : (setErrCause c s).input = s.input := rfl
@[simp] theorem setErrCause_out (c : Option Cause) (s : State) : (setErrCause c s).out = s.out := rfl

/-! ### emit -/

@[simp] theorem emit_phase (e : OutEvent) (s : State) : (emit e s).phase = s.phase := rfl
@[simp] theorem emit_pos (e : OutEvent) (s : State) : (emit e s).pos = s.pos := rfl
@[simp] theorem emit_hdr (e : OutEvent) (s : State) : (emit e s).hdr = s.hdr := rfl
@[simp] theorem emit_hdrValid (e : OutEvent) (s : State) : (emit e s).hdrValid = s.hdrValid := rfl
@[simp] theorem emit_afLen (e : OutEvent) (s : State) : (emit e s).afLen = s.afLen := rfl
@[simp] theorem emit_afRem (e : OutEvent) (s : State) : (emit e s).afRem = s.afRem := rfl
@[simp] theorem emit_errCause (e : OutEvent) (s : State) : (emit e s).errCause = s.errCause := rfl
@[simp] theorem emit_input (e : OutEvent) (s : State) : (emit e s).input = s.input := rfl
@[simp] theorem emit_out (e : OutEvent) (s : State) : (emit e s).out = s.out ++ [e] := rfl

/-! ### raise -/

@[simp] theorem raise_phase (c : Cause) (s : State) : (raise c s).phase = .err := rfl
@[simp] theorem raise_pos (c : Cause) (s : State) : (raise c s).pos = s.pos := rfl
@[simp] theorem raise_hdr (c : Cause) (s : State) : (raise c s).hdr = s.hdr := rfl
@[simp] theorem raise_hdrValid (c : Cause) (s : State) : (raise c s).hdrValid = s.hdrValid := rfl
@[simp] theorem raise_afLen (c : Cause) (s : State) : (raise c s).afLen = s.afLen := rfl
@[simp] theorem raise_afRem (c : Cause) (s : State) : (raise c s).afRem = s.afRem := rfl
@[simp] theorem raise_errCause (c : Cause) (s : State) : (raise c s).errCause = some c := rfl
@[simp] theorem raise_input (c : Cause) (s : State) : (raise c s).input = s.input := rfl
@[simp] theorem raise_out (c : Cause) (s : State) : (raise c s).out = s.out ++ [.err c s.pos] := rfl

/-! ### returnToIdle -/

@[simp] theorem returnToIdle_phase (s : State) : (returnToIdle s).phase = .idle := rfl
@[simp] theorem returnToIdle_pos (s : State) : (returnToIdle s).pos = 0 := rfl
@[simp] theorem returnToIdle_hdr (s : State) : (returnToIdle s).hdr = s.hdr := rfl
@[simp] theorem returnToIdle_hdrValid (s : State) : (returnToIdle s).hdrValid = false := rfl
@[simp] theorem returnToIdle_afLen (s : State) : (returnToIdle s).afLen = s.afLen := rfl
@[simp] theorem returnToIdle_afRem (s : State) : (returnToIdle s).afRem = s.afRem := rfl
@[simp] theorem returnToIdle_errCause (s : State) : (returnToIdle s).errCause = none := rfl
@[simp] theorem returnToIdle_input (s : State) : (returnToIdle s).input = s.input := rfl
@[simp] theorem returnToIdle_out (s : State) : (returnToIdle s).out = s.out := rfl

/-! ### resetRegisters -/

@[simp] theorem resetRegisters_phase (s : State) : (resetRegisters s).phase = .idle := rfl
@[simp] theorem resetRegisters_pos (s : State) : (resetRegisters s).pos = 0 := rfl
@[simp] theorem resetRegisters_hdr (s : State) : (resetRegisters s).hdr = HdrReg.noValue := rfl
@[simp] theorem resetRegisters_hdrValid (s : State) : (resetRegisters s).hdrValid = false := rfl
@[simp] theorem resetRegisters_afLen (s : State) : (resetRegisters s).afLen = none := rfl
@[simp] theorem resetRegisters_afRem (s : State) : (resetRegisters s).afRem = none := rfl
@[simp] theorem resetRegisters_errCause (s : State) : (resetRegisters s).errCause = none := rfl
@[simp] theorem resetRegisters_input (s : State) : (resetRegisters s).input = s.input := rfl
@[simp] theorem resetRegisters_out (s : State) : (resetRegisters s).out = s.out := rfl

/-! ### dropHeader -/

@[simp] theorem dropHeader_phase (s : State) : (dropHeader s).phase = s.phase := rfl
@[simp] theorem dropHeader_pos (s : State) : (dropHeader s).pos = s.pos := rfl
@[simp] theorem dropHeader_hdr (s : State) : (dropHeader s).hdr = s.hdr := rfl
@[simp] theorem dropHeader_hdrValid (s : State) : (dropHeader s).hdrValid = false := rfl
@[simp] theorem dropHeader_afLen (s : State) : (dropHeader s).afLen = s.afLen := rfl
@[simp] theorem dropHeader_afRem (s : State) : (dropHeader s).afRem = s.afRem := rfl
@[simp] theorem dropHeader_errCause (s : State) : (dropHeader s).errCause = s.errCause := rfl
@[simp] theorem dropHeader_input (s : State) : (dropHeader s).input = s.input := rfl
@[simp] theorem dropHeader_out (s : State) : (dropHeader s).out = s.out := rfl

/-! ### validateHeader -/

@[simp] theorem validateHeader_phase (s : State) : (validateHeader s).phase = s.phase := rfl
@[simp] theorem validateHeader_pos (s : State) : (validateHeader s).pos = s.pos := rfl
@[simp] theorem validateHeader_hdr (s : State) : (validateHeader s).hdr = s.hdr := rfl
@[simp] theorem validateHeader_hdrValid (s : State) : (validateHeader s).hdrValid = true := rfl
@[simp] theorem validateHeader_afLen (s : State) : (validateHeader s).afLen = s.afLen := rfl
@[simp] theorem validateHeader_afRem (s : State) : (validateHeader s).afRem = s.afRem := rfl
@[simp] theorem validateHeader_errCause (s : State) : (validateHeader s).errCause = s.errCause := rfl
@[simp] theorem validateHeader_input (s : State) : (validateHeader s).input = s.input := rfl
@[simp] theorem validateHeader_out (s : State) : (validateHeader s).out = s.out := rfl

/-! ### fetched -/

@[simp] theorem fetched_phase (s : State) : (fetched s).phase = s.phase := rfl
@[simp] theorem fetched_pos (s : State) : (fetched s).pos = s.pos := rfl
@[simp] theorem fetched_hdr (s : State) : (fetched s).hdr = s.hdr := rfl
@[simp] theorem fetched_hdrValid (s : State) : (fetched s).hdrValid = s.hdrValid := rfl
@[simp] theorem fetched_afLen (s : State) : (fetched s).afLen = s.afLen := rfl
@[simp] theorem fetched_afRem (s : State) : (fetched s).afRem = s.afRem := rfl
@[simp] theorem fetched_errCause (s : State) : (fetched s).errCause = s.errCause := rfl
@[simp] theorem fetched_input (s : State) : (fetched s).input = s.input.tail := rfl
@[simp] theorem fetched_out (s : State) : (fetched s).out = [] := rfl

/-! ### placeSample -/

@[simp] theorem placeSample_phase (x : PortIn) (s : State) : (placeSample x s).phase = s.phase := rfl
@[simp] theorem placeSample_pos (x : PortIn) (s : State) : (placeSample x s).pos = s.pos := rfl
@[simp] theorem placeSample_hdr (x : PortIn) (s : State) : (placeSample x s).hdr = s.hdr := rfl
@[simp] theorem placeSample_hdrValid (x : PortIn) (s : State) : (placeSample x s).hdrValid = s.hdrValid := rfl
@[simp] theorem placeSample_afLen (x : PortIn) (s : State) : (placeSample x s).afLen = s.afLen := rfl
@[simp] theorem placeSample_afRem (x : PortIn) (s : State) : (placeSample x s).afRem = s.afRem := rfl
@[simp] theorem placeSample_errCause (x : PortIn) (s : State) : (placeSample x s).errCause = s.errCause := rfl
@[simp] theorem placeSample_input (x : PortIn) (s : State) : (placeSample x s).input = x :: s.input := rfl
@[simp] theorem placeSample_out (x : PortIn) (s : State) : (placeSample x s).out = s.out := rfl

end Sys2Proof.Machine
end

