-- ==== Sys2Proof/Laws/Ops.lean ====
section
/-! SUPPORT. Everything the shared operations can do: one lemma for each, to be cited instead of unfolding. -/

namespace Sys2Proof.Machine

/-! ### Outcomes -/

theorem inContext_next {c : Bool} {k : Res} {t : State} :
    inContext c k = .next t ↔ c = true ∧ k = .next t := by
  cases c <;> simp [inContext]

theorem withValue_next {α : Type} {o : Option α} {k : α → Res} {t : State} :
    withValue o k = .next t ↔ ∃ v, o = some v ∧ k v = .next t := by
  cases o <;> simp [withValue]

theorem operandOk_next {c : Bool} {k : Res} {t : State} :
    operandOk c k = .next t ↔ c = true ∧ k = .next t := by
  cases c <;> simp [operandOk]

theorem inContext_of {c : Bool} (h : c = true) (k : Res) : inContext c k = k := by simp [inContext, h]

theorem withValue_some {α : Type} (v : α) (k : α → Res) : withValue (some v) k = k v := rfl

theorem operandOk_of {c : Bool} (h : c = true) (k : Res) : operandOk c k = k := by simp [operandOk, h]

/-! ### The advance law (R137) -/

theorem advance_last {p : Params} {s : State} (h : s.pos.toNat = p.pktSize - 1) :
    advance p s = setPos 0 (setPhase .idle (emit .done s)) := by simp [advance, h]

theorem advance_inside {p : Params} {s : State} (h : s.pos.toNat ≠ p.pktSize - 1) :
    advance p s = setPos (s.pos + 1) s := by simp [advance, h]

/-- Either the window ends with `Done`, or `pos` goes up by one and nothing else changes. -/
theorem advance_cases (p : Params) (s : State) :
    (s.pos.toNat = p.pktSize - 1 ∧ advance p s = setPos 0 (setPhase .idle (emit .done s))) ∨
      (s.pos.toNat ≠ p.pktSize - 1 ∧ advance p s = setPos (s.pos + 1) s) := by
  by_cases h : s.pos.toNat = p.pktSize - 1
  · exact .inl ⟨h, advance_last h⟩
  · exact .inr ⟨h, advance_inside h⟩

@[simp] theorem advance_hdr (p : Params) (s : State) : (advance p s).hdr = s.hdr := by
  unfold advance; split <;> rfl
@[simp] theorem advance_hdrValid (p : Params) (s : State) : (advance p s).hdrValid = s.hdrValid := by
  unfold advance; split <;> rfl
@[simp] theorem advance_afLen (p : Params) (s : State) : (advance p s).afLen = s.afLen := by
  unfold advance; split <;> rfl
@[simp] theorem advance_afRem (p : Params) (s : State) : (advance p s).afRem = s.afRem := by
  unfold advance; split <;> rfl
@[simp] theorem advance_errCause (p : Params) (s : State) : (advance p s).errCause = s.errCause := by
  unfold advance; split <;> rfl
@[simp] theorem advance_input (p : Params) (s : State) : (advance p s).input = s.input := by
  unfold advance; split <;> rfl

/-! ### Contexts (R94) -/

theorem atOffset_iff {ph : Phase} {n : Nat} {s : State} :
    atOffset ph n s = true ↔ s.phase = ph ∧ s.pos.toNat = n := by simp [atOffset]

theorem inRegion_iff {p : Params} {ph : Phase} {lo : Nat} {s : State} :
    inRegion p ph lo s = true ↔ s.phase = ph ∧ lo ≤ s.pos.toNat ∧ s.pos.toNat < p.pktSize := by simp [inRegion]

theorem completes_iff {h : HdrWord} {s : State} :
    completes h s = true ↔ s.phase = .hdr ∧ s.pos.toNat = 3 ∧ s.hdr.lane0 = some (hdrByte h 0) ∧
      s.hdr.lane1 = some (hdrByte h 1) ∧ s.hdr.lane2 = some (hdrByte h 2) := by
  simp [completes, atOffset, and_assoc]

end Sys2Proof.Machine
end

