-- ==== Sys2Proof/Laws/Moves.lean ====
section
/-! SUPPORT. What a step can do, said once: the moves of the machine, and that every operation that answers a next
state makes one of them. Later proofs go by the moves instead of unfolding the meanings. -/

namespace Sys2Proof.Machine

/-- A move other than those of `RESET` and `CLEAR`, with the context it is made in. -/
inductive Move (p : Params) (s : State) : State → Prop where
  | stay : Move p s s
  | sourceIo (hph : s.phase ≠ .err) : Move p s (raise .sourceIo s)
  | cleanEos (hph : s.phase = .idle) : Move p s (emit .eos s)
  | truncated (hi : s.phase ≠ .idle) (he : s.phase ≠ .err) : Move p s (raise .truncated s)
  | sync (hph : s.phase = .idle) (hp : s.pos.toNat = 0) :
      Move p s (advance p (setPhase .hdr (dropHeader (setLane0 p.syncByte s))))
  | badSync (b : Byte) (hph : s.phase = .idle) (hp : s.pos.toNat = 0) (hb : b ≠ p.syncByte) :
      Move p s (raise .badSync (dropHeader (setLane0 b s)))
  | byteOne (b : Byte) (hph : s.phase = .hdr) (hp : s.pos.toNat = 1) : Move p s (advance p (setLane1 b s))
  | byteTwo (b : Byte) (hph : s.phase = .hdr) (hp : s.pos.toNat = 2) : Move p s (advance p (setLane2 b s))
  | header (w : HdrWord) (hph : s.phase = .hdr) (hp : s.pos.toNat = 3) (k0 : s.hdr.lane0 = some (hdrByte w 0))
      (k1 : s.hdr.lane1 = some (hdrByte w 1)) (k2 : s.hdr.lane2 = some (hdrByte w 2)) :
      Move p s (afterHeader p (hdrAfc w) (commitHeader w (record p w) s))
  | overrun (len : Byte) (hph : s.phase = .aflen) (hp : s.pos.toNat = p.hdrSize) (hl : p.afLenMax < len.toNat) :
      Move p s (lengthOverrun len s)
  | residual (len : Byte) (hph : s.phase = .aflen) (hp : s.pos.toNat = p.hdrSize) (hl : len.toNat < p.afLenMax)
      (hv : viewHasPayload s = some false) : Move p s (lengthResidual len s)
  | accepted (len : Byte) (hasPayload : Bool) (hph : s.phase = .aflen) (hp : s.pos.toNat = p.hdrSize)
      (hl : len.toNat ≤ p.afLenMax) (hv : viewHasPayload s = some hasPayload)
      (ht : hasPayload = true ∨ len.toNat = p.afLenMax) : Move p s (lengthAccepted p len s)
  | body (b r : Byte) (hph : s.phase = .af) (hlo : p.hdrSize + 1 ≤ s.pos.toNat) (hhi : s.pos.toNat < p.pktSize)
      (hr : s.afRem = some r) (r1 : 1 ≤ r.toNat) (r2 : r.toNat ≤ p.afLenMax) : Move p s (bodyByte p b r s)
  | pay (b : Byte) (hph : s.phase = .payload) (hlo : p.hdrSize ≤ s.pos.toNat) (hhi : s.pos.toNat < p.pktSize) :
      Move p s (advance p (emit (.payByte b) s))
  | skip (hph : s.phase = .skip) (hlo : p.hdrSize ≤ s.pos.toNat) (hhi : s.pos.toNat < p.pktSize) :
      Move p s (advance p s)

variable {p : Params} {s t : State} {b : Byte}

theorem syncOp_move (h : syncOp p s = .next t) : Move p s t := by
  obtain ⟨hc, ht⟩ := inContext_next.mp h
  cases ht
  exact .sync (atOffset_iff.mp hc).1 (atOffset_iff.mp hc).2

theorem badSyncOp_move (hb : b ≠ p.syncByte) (h : badSyncOp b s = .next t) : Move p s t := by
  obtain ⟨hc, ht⟩ := inContext_next.mp h
  cases ht
  exact .badSync b (atOffset_iff.mp hc).1 (atOffset_iff.mp hc).2 hb

theorem hb1Op_move (h : hb1Op p b s = .next t) : Move p s t := by
  obtain ⟨hc, ht⟩ := inContext_next.mp h
  cases ht
  exact .byteOne b (atOffset_iff.mp hc).1 (atOffset_iff.mp hc).2

theorem hb2Op_move (h : hb2Op p b s = .next t) : Move p s t := by
  obtain ⟨hc, ht⟩ := inContext_next.mp h
  cases ht
  exact .byteTwo b (atOffset_iff.mp hc).1 (atOffset_iff.mp hc).2

theorem hb3Op_move (h : hb3Op p b s = .next t) : Move p s t := by
  obtain ⟨hc, ht⟩ := inContext_next.mp h
  obtain ⟨b0, h0, ht⟩ := withValue_next.mp ht
  obtain ⟨b1, h1, ht⟩ := withValue_next.mp ht
  obtain ⟨b2, h2, ht⟩ := withValue_next.mp ht
  cases ht
  exact .header _ (atOffset_iff.mp hc).1 (atOffset_iff.mp hc).2 (by rw [hdrByte_join0, h0])
    (by rw [hdrByte_join1, h1]) (by rw [hdrByte_join2, h2])

theorem afterHeader_eq (p : Params) (s : State) :
    afterHeader p 0b01 s = payloadOnly p s ∧ afterHeader p 0b10 s = fieldOnly p s ∧
      afterHeader p 0b11 s = fieldAndPayload p s ∧ afterHeader p 0b00 s = neitherRegion p s :=
  ⟨rfl, rfl, rfl, rfl⟩

theorem classStep_move {w : HdrWord} {k : State → State} (hk : ∀ s', k s' = afterHeader p (hdrAfc w) s')
    (h : classStep p w k s = .next t) : Move p s t := by
  obtain ⟨hc, ht⟩ := inContext_next.mp h
  cases ht
  obtain ⟨a, c, d0, d1, d2⟩ := completes_iff.mp hc
  rw [hk]
  exact .header w a c d0 d1 d2

theorem pidStep_move {w : HdrWord} {c : PidClass} (hcls : c = pidClass p (hdrPid w))
    (h : pidStep p w c s = .next t) : Move p s t := by
  obtain ⟨hc, ht⟩ := inContext_next.mp h
  cases ht
  obtain ⟨a, c, d0, d1, d2⟩ := completes_iff.mp hc
  subst hcls
  exact .header w a c d0 d1 d2

theorem aflenOp_move {len : Byte} (h : aflenOp p len s = .next t) : Move p s t := by
  obtain ⟨hc, ht⟩ := inContext_next.mp h
  obtain ⟨hph, hpos⟩ := atOffset_iff.mp hc
  split at ht
  · rename_i hl; cases ht; exact .overrun len hph hpos hl
  · obtain ⟨hp, hv, ht⟩ := withValue_next.mp ht
    split at ht
    · rename_i hl; cases ht; exact .residual len hph hpos hl.2 (by rw [hv, hl.1])
    · rename_i hn hl; cases ht
      refine .accepted len hp hph hpos (by omega) hv ?_
      cases hp <;> simp at hl ⊢; omega

theorem afbyteOp_move (h : afbyteOp p b s = .next t) : Move p s t := by
  obtain ⟨hc, ht⟩ := inContext_next.mp h
  obtain ⟨r, hr, ht⟩ := withValue_next.mp ht
  obtain ⟨hrange, ht⟩ := inContext_next.mp ht
  cases ht
  obtain ⟨a, lo, hi⟩ := inRegion_iff.mp hc
  simp only [decide_eq_true_eq] at hrange
  exact .body b r a lo hi hr hrange.1 hrange.2

theorem paybyteOp_move (h : paybyteOp p b s = .next t) : Move p s t := by
  obtain ⟨hc, ht⟩ := inContext_next.mp h
  cases ht
  obtain ⟨a, lo, hi⟩ := inRegion_iff.mp hc
  exact .pay b a lo hi

theorem skipbyteOp_move (h : skipbyteOp p b s = .next t) : Move p s t := by
  obtain ⟨hc, ht⟩ := inContext_next.mp h
  cases ht
  obtain ⟨a, lo, hi⟩ := inRegion_iff.mp hc
  exact .skip a lo hi

theorem byteOp_move (h : byteOp p b s = .next t) : Move p s t := by
  unfold byteOp at h
  split at h
  · split at h
    · exact syncOp_move h
    · rename_i hb; exact badSyncOp_move hb h
  · split at h
    · exact hb1Op_move h
    split at h
    · exact hb2Op_move h
    split at h
    · exact hb3Op_move h
    · cases h
  · exact aflenOp_move h
  · exact afbyteOp_move h
  · exact paybyteOp_move h
  · exact skipbyteOp_move h
  · cases h; exact .stay

theorem srcerrOp_move (p : Params) (s : State) : Move p s (srcerrOp s) := by
  unfold srcerrOp
  split
  · exact .stay
  · rename_i h; exact .sourceIo h

theorem eosOp_move (p : Params) (s : State) : Move p s (eosOp s) := by
  unfold eosOp
  split
  · exact .stay
  split
  · rename_i h; exact .cleanEos h
  · rename_i he hi; exact .truncated hi he

/-- What the event-level step function can do. -/
theorem react_move {ev : Event} (h : react p ev s = .next t) :
    (ev = .reset ∧ t = resetRegisters s) ∨ (ev = .clear ∧ t = returnToIdle s) ∨
      (ev ≠ .reset ∧ ev ≠ .clear ∧ Move p s t) := by
  cases ev with
  | reset => cases h; exact .inl ⟨rfl, rfl⟩
  | clear => cases h; exact .inr (.inl ⟨rfl, rfl⟩)
  | srcerr => cases h; exact .inr (.inr ⟨nofun, nofun, srcerrOp_move p s⟩)
  | eos => cases h; exact .inr (.inr ⟨nofun, nofun, eosOp_move p s⟩)
  | byte b => exact .inr (.inr ⟨nofun, nofun, byteOp_move h⟩)
  | nop => cases h; exact .inr (.inr ⟨nofun, nofun, .stay⟩)

/-- An event's operation is the event-level step function at the hardware's parameters (R130). -/
theorem exec_event (ev : Event) (s : State) : exec ev.toInstr s = react Config.params ev s := by
  cases ev <;> rfl

/-- What any operation can do. -/
theorem exec_move {i : Instr} (h : exec i s = .next t) :
    (i = .reset ∧ t = resetRegisters s) ∨ (i = .clear ∧ t = returnToIdle s) ∨
      (i ≠ .reset ∧ i ≠ .clear ∧ Move Config.params s t) := by
  cases i with
  | reset => cases h; exact .inl ⟨rfl, rfl⟩
  | clear => cases h; exact .inr (.inl ⟨rfl, rfl⟩)
  | srcerr => cases h; exact .inr (.inr ⟨nofun, nofun, srcerrOp_move _ s⟩)
  | eos => cases h; exact .inr (.inr ⟨nofun, nofun, eosOp_move _ s⟩)
  | byte b => exact .inr (.inr ⟨nofun, nofun, byteOp_move h⟩)
  | nop => cases h; exact .inr (.inr ⟨nofun, nofun, .stay⟩)
  | sync => exact .inr (.inr ⟨nofun, nofun, syncOp_move h⟩)
  | badsync b =>
    obtain ⟨hb, h⟩ := operandOk_next.mp h
    exact .inr (.inr ⟨nofun, nofun, badSyncOp_move (by simpa using hb) h⟩)
  | hb1 tei pusi prio pidHi => exact .inr (.inr ⟨nofun, nofun, hb1Op_move h⟩)
  | hb2 pidLo => exact .inr (.inr ⟨nofun, nofun, hb2Op_move h⟩)
  | hb3 tsc afc cc => exact .inr (.inr ⟨nofun, nofun, hb3Op_move h⟩)
  | hdrAfc00 tei pusi prio pid tsc cc =>
    exact .inr (.inr ⟨nofun, nofun, classStep_move (fun _ => by rw [hdrAfc_pack]; rfl) h⟩)
  | hdrAfc01 tei pusi prio pid tsc cc =>
    exact .inr (.inr ⟨nofun, nofun, classStep_move (fun _ => by rw [hdrAfc_pack]; rfl) h⟩)
  | hdrAfc10 tei pusi prio pid tsc cc =>
    exact .inr (.inr ⟨nofun, nofun, classStep_move (fun _ => by rw [hdrAfc_pack]; rfl) h⟩)
  | hdrAfc11 tei pusi prio pid tsc cc =>
    exact .inr (.inr ⟨nofun, nofun, classStep_move (fun _ => by rw [hdrAfc_pack]; rfl) h⟩)
  | pidcPat sync tei pusi prio tsc afc cc =>
    exact .inr (.inr ⟨nofun, nofun, pidStep_move (by rw [hdrPid_pack]; rfl) h⟩)
  | pidcStuff sync tei pusi prio tsc afc cc =>
    exact .inr (.inr ⟨nofun, nofun, pidStep_move (by rw [hdrPid_pack]; rfl) h⟩)
  | pidcRaw sync tei pusi prio pid tsc afc cc =>
    obtain ⟨hpid, h⟩ := operandOk_next.mp h
    refine .inr (.inr ⟨nofun, nofun, pidStep_move ?_ h⟩)
    rw [hdrPid_pack]
    simp only [Bool.and_eq_true, bne_iff_ne] at hpid
    simp [pidClass, hpid.1, hpid.2]
  | aflen len => exact .inr (.inr ⟨nofun, nofun, aflenOp_move h⟩)
  | aflenOverrun len =>
    obtain ⟨hl, h⟩ := operandOk_next.mp h
    obtain ⟨hc, h⟩ := inContext_next.mp h
    cases h
    exact .inr (.inr ⟨nofun, nofun, .overrun len (atOffset_iff.mp hc).1 (atOffset_iff.mp hc).2 (by simpa using hl)⟩)
  | aflenResidual len =>
    obtain ⟨hl, h⟩ := operandOk_next.mp h
    obtain ⟨hc, h⟩ := inContext_next.mp h
    obtain ⟨hp, hv, h⟩ := withValue_next.mp h
    obtain ⟨hf, h⟩ := inContext_next.mp h
    cases h
    exact .inr (.inr ⟨nofun, nofun, .residual len (atOffset_iff.mp hc).1 (atOffset_iff.mp hc).2 (by simpa using hl)
      (by rw [hv]; simpa using hf)⟩)
  | aflenOk len =>
    obtain ⟨hl, h⟩ := operandOk_next.mp h
    obtain ⟨hc, h⟩ := inContext_next.mp h
    obtain ⟨hp, hv, h⟩ := withValue_next.mp h
    obtain ⟨hf, h⟩ := inContext_next.mp h
    cases h
    exact .inr (.inr ⟨nofun, nofun, .accepted len hp (atOffset_iff.mp hc).1 (atOffset_iff.mp hc).2
      (by simpa using hl) hv (by simpa using hf)⟩)
  | afbyte b => exact .inr (.inr ⟨nofun, nofun, afbyteOp_move h⟩)
  | paybyte b => exact .inr (.inr ⟨nofun, nofun, paybyteOp_move h⟩)
  | skipbyte b => exact .inr (.inr ⟨nofun, nofun, skipbyteOp_move (b := b) h⟩)

end Sys2Proof.Machine
end

