-- ==== Sys2Proof/Laws/PerInstr.lean ====
section
/-! SUPPORT. Per-instruction facts about the syntax: the length of every row's encoding. -/

namespace Sys2Proof.Laws.EncodedLength

/-- The bytes of an operation: an `EVT` byte, two for `BYTE` with its data, one for formats `B8` and `L8`, four for
`H32` (30_encoding.md R90, 95_test_vectors.md section 3). -/
def bytesOf (i : Instr) : Nat :=
  match i with
  | .reset => 1
  | .clear => 1
  | .srcerr => 1
  | .eos => 1
  | .byte _ => 2
  | .nop => 1
  | .sync => 1
  | .badsync _ => 1
  | .hb1 _ _ _ _ => 1
  | .hb2 _ => 1
  | .hb3 _ _ _ => 1
  | .hdrAfc00 _ _ _ _ _ _ => 4
  | .hdrAfc01 _ _ _ _ _ _ => 4
  | .hdrAfc10 _ _ _ _ _ _ => 4
  | .hdrAfc11 _ _ _ _ _ _ => 4
  | .pidcPat _ _ _ _ _ _ _ => 4
  | .pidcStuff _ _ _ _ _ _ _ => 4
  | .pidcRaw _ _ _ _ _ _ _ _ => 4
  | .aflen _ => 1
  | .aflenOverrun _ => 1
  | .aflenResidual _ => 1
  | .aflenOk _ => 1
  | .afbyte _ => 1
  | .paybyte _ => 1
  | .skipbyte _ => 1

/-- The encoding of `i` has the length of its row's format. -/
def Statement (i : Instr) : Prop := (encode i).length = bytesOf i

theorem reset : Statement .reset := rfl
theorem clear : Statement .clear := rfl
theorem srcerr : Statement .srcerr := rfl
theorem eos : Statement .eos := rfl
theorem byte : ∀ a, Statement (.byte a) := fun _ => rfl
theorem nop : Statement .nop := rfl
theorem sync : Statement .sync := rfl
theorem badsync : ∀ a, Statement (.badsync a) := fun _ => rfl
theorem hb1 : ∀ a b c d, Statement (.hb1 a b c d) := fun _ _ _ _ => rfl
theorem hb2 : ∀ a, Statement (.hb2 a) := fun _ => rfl
theorem hb3 : ∀ a b c, Statement (.hb3 a b c) := fun _ _ _ => rfl
theorem hdrAfc00 : ∀ a b c d e f, Statement (.hdrAfc00 a b c d e f) := fun _ _ _ _ _ _ => rfl
theorem hdrAfc01 : ∀ a b c d e f, Statement (.hdrAfc01 a b c d e f) := fun _ _ _ _ _ _ => rfl
theorem hdrAfc10 : ∀ a b c d e f, Statement (.hdrAfc10 a b c d e f) := fun _ _ _ _ _ _ => rfl
theorem hdrAfc11 : ∀ a b c d e f, Statement (.hdrAfc11 a b c d e f) := fun _ _ _ _ _ _ => rfl
theorem pidcPat : ∀ a b c d e f g, Statement (.pidcPat a b c d e f g) := fun _ _ _ _ _ _ _ => rfl
theorem pidcStuff : ∀ a b c d e f g, Statement (.pidcStuff a b c d e f g) := fun _ _ _ _ _ _ _ => rfl
theorem pidcRaw : ∀ a b c d e f g h, Statement (.pidcRaw a b c d e f g h) := fun _ _ _ _ _ _ _ _ => rfl
theorem aflen : ∀ a, Statement (.aflen a) := fun _ => rfl
theorem aflenOverrun : ∀ a, Statement (.aflenOverrun a) := fun _ => rfl
theorem aflenResidual : ∀ a, Statement (.aflenResidual a) := fun _ => rfl
theorem aflenOk : ∀ a, Statement (.aflenOk a) := fun _ => rfl
theorem afbyte : ∀ a, Statement (.afbyte a) := fun _ => rfl
theorem paybyte : ∀ a, Statement (.paybyte a) := fun _ => rfl
theorem skipbyte : ∀ a, Statement (.skipbyte a) := fun _ => rfl

end Sys2Proof.Laws.EncodedLength
end

