-- ==== Sys2Proof/Laws/Runs.lean ====
section
/-! SUPPORT. How runs are taken apart. -/

namespace Sys2Proof.Machine

variable {p : Params} {s t : State} {ev : Event}

theorem runEvents_cons (h : react p ev { s with out := [] } = .next t) (evs : List Event) :
    runEvents p (ev :: evs) s = (runEvents p evs t).map fun r => (r.1, t.out ++ r.2) := by
  simp [runEvents, h]

/-- The output list a run starts from is not looked at, but by the run of no event. -/
theorem runEvents_out (ev : Event) (evs : List Event) (o : List OutEvent) :
    runEvents p (ev :: evs) { s with out := o } = runEvents p (ev :: evs) s := rfl

theorem runEvents_append (evs₁ evs₂ : List Event) (s : State) :
    runEvents p (evs₁ ++ evs₂) s =
      (runEvents p evs₁ s).bind fun r => (runEvents p evs₂ r.1).map fun r' => (r'.1, r.2 ++ r'.2) := by
  induction evs₁ generalizing s with
  | nil => simp [runEvents]
  | cons ev evs ih =>
    simp only [List.cons_append, runEvents]
    cases h : react p ev { s with out := [] } with
    | next t => simp [ih, Option.map_bind, Option.bind_map, Function.comp_def, List.append_assoc]
    | fault _ => rfl
    | refused _ => rfl

end Sys2Proof.Machine
end

