-- ==== Sys2Proof/Laws/Stops.lean ====
section
/-! SUPPORT. Where the model fault of 00_scope.md R13 is met: only where a register or view that a rule reads is `⊥`, and so
in no state that meets the invariants of 10_state.md R30. -/

namespace Sys2Proof.Machine

/-! ### The ways a meaning stops, for this fault -/

theorem inContext_readNoValue {c : Bool} {k : Res} :
    inContext c k = .fault .readNoValue ↔ c = true ∧ k = .fault .readNoValue := by
  cases c <;> simp [inContext]

theorem withValue_readNoValue {α : Type} {o : Option α} {k : α → Res} :
    withValue o k = .fault .readNoValue ↔ o = none ∨ ∃ v, o = some v ∧ k v = .fault .readNoValue := by
  cases o <;> simp [withValue]

theorem operandOk_readNoValue {c : Bool} {k : Res} :
    operandOk c k = .fault .readNoValue ↔ c = true ∧ k = .fault .readNoValue := by
  cases c <;> simp [operandOk]

/-- The reads of `⊥`: a lane in the step of `HB3`, the view `has_payload` in the step of `AFLEN`, `af_rem` in the step of
`AFBYTE`. -/
inductive ReadsNoValue (s : State) : Prop where
  | lane (hph : s.phase = .hdr) (hp : s.pos.toNat = 3)
      (h : s.hdr.lane0 = none ∨ s.hdr.lane1 = none ∨ s.hdr.lane2 = none) : ReadsNoValue s
  | hasPayload (hph : s.phase = .aflen) (h : viewHasPayload s = none) : ReadsNoValue s
  | afRem (hph : s.phase = .af) (h : s.afRem = none) : ReadsNoValue s

variable {p : Params} {s : State} {b : Byte}

theorem hb3Op_readNoValue (h : hb3Op p b s = .fault .readNoValue) : ReadsNoValue s := by
  obtain ⟨hc, h⟩ := inContext_readNoValue.mp h
  obtain ⟨hph, hp⟩ := atOffset_iff.mp hc
  obtain h | ⟨_, -, h⟩ := withValue_readNoValue.mp h
  · exact .lane hph hp (.inl h)
  obtain h | ⟨_, -, h⟩ := withValue_readNoValue.mp h
  · exact .lane hph hp (.inr (.inl h))
  obtain h | ⟨_, -, h⟩ := withValue_readNoValue.mp h
  · exact .lane hph hp (.inr (.inr h))
  · cases h

theorem aflenOp_readNoValue (h : aflenOp p b s = .fault .readNoValue) : ReadsNoValue s := by
  obtain ⟨hc, h⟩ := inContext_readNoValue.mp h
  split at h
  · cases h
  obtain h | ⟨_, -, h⟩ := withValue_readNoValue.mp h
  · exact .hasPayload (atOffset_iff.mp hc).1 h
  · split at h <;> cases h

theorem afbyteOp_readNoValue (h : afbyteOp p b s = .fault .readNoValue) : ReadsNoValue s := by
  obtain ⟨hc, h⟩ := inContext_readNoValue.mp h
  obtain h | ⟨_, -, h⟩ := withValue_readNoValue.mp h
  · exact .afRem (inRegion_iff.mp hc).1 h
  · cases (inContext_readNoValue.mp h).2

/-- An operation without a read of such a register or view does not meet the fault. -/
theorem inContext_next_ne {c : Bool} {t : State} : inContext c (.next t) ≠ .fault .readNoValue := by
  cases c <;> simp [inContext]

theorem byteOp_readNoValue (h : byteOp p b s = .fault .readNoValue) : ReadsNoValue s := by
  unfold byteOp at h
  split at h
  · split at h <;> exact absurd h inContext_next_ne
  · split at h
    · exact absurd h inContext_next_ne
    split at h
    · exact absurd h inContext_next_ne
    split at h
    · exact hb3Op_readNoValue h
    · cases h
  · exact aflenOp_readNoValue h
  · exact afbyteOp_readNoValue h
  · exact absurd h inContext_next_ne
  · exact absurd h inContext_next_ne
  · cases h

/-- Any operation that meets the fault reads `⊥`. -/
theorem exec_readNoValue {i : Instr} (h : exec i s = .fault .readNoValue) : ReadsNoValue s := by
  cases i with
  | byte b => exact byteOp_readNoValue h
  | hb3 tsc afc cc => exact hb3Op_readNoValue h
  | aflen len => exact aflenOp_readNoValue h
  | aflenResidual len =>
    obtain ⟨hc, h⟩ := inContext_readNoValue.mp (operandOk_readNoValue.mp h).2
    obtain h | ⟨_, -, h⟩ := withValue_readNoValue.mp h
    · exact .hasPayload (atOffset_iff.mp hc).1 h
    · exact absurd h inContext_next_ne
  | aflenOk len =>
    obtain ⟨hc, h⟩ := inContext_readNoValue.mp (operandOk_readNoValue.mp h).2
    obtain h | ⟨_, -, h⟩ := withValue_readNoValue.mp h
    · exact .hasPayload (atOffset_iff.mp hc).1 h
    · exact absurd h inContext_next_ne
  | afbyte b => exact afbyteOp_readNoValue h
  | badsync b => exact absurd (operandOk_readNoValue.mp h).2 inContext_next_ne
  | pidcRaw sync tei pusi prio pid tsc afc cc => exact absurd (operandOk_readNoValue.mp h).2 inContext_next_ne
  | aflenOverrun len => exact absurd (operandOk_readNoValue.mp h).2 inContext_next_ne
  | reset => cases h
  | clear => cases h
  | srcerr => cases h
  | eos => cases h
  | nop => cases h
  | sync => exact absurd h inContext_next_ne
  | hb1 tei pusi prio pidHi => exact absurd h inContext_next_ne
  | hb2 pidLo => exact absurd h inContext_next_ne
  | hdrAfc00 tei pusi prio pid tsc cc => exact absurd h inContext_next_ne
  | hdrAfc01 tei pusi prio pid tsc cc => exact absurd h inContext_next_ne
  | hdrAfc10 tei pusi prio pid tsc cc => exact absurd h inContext_next_ne
  | hdrAfc11 tei pusi prio pid tsc cc => exact absurd h inContext_next_ne
  | pidcPat sync tei pusi prio tsc afc cc => exact absurd h inContext_next_ne
  | pidcStuff sync tei pusi prio tsc afc cc => exact absurd h inContext_next_ne
  | paybyte b => exact absurd h inContext_next_ne
  | skipbyte b => exact absurd h inContext_next_ne

/-- In no state that meets R30 is `⊥` read: "No rule of this spec reads a register while it may be `⊥`" (R14). -/
theorem not_readsNoValue_of_inv (hi : Inv p s) : ¬ReadsNoValue s := by
  rintro (⟨hph, hp, h⟩ | ⟨hph, h⟩ | ⟨hph, h⟩)
  · obtain ⟨-, -, -, h0, h1, h2⟩ := hi.hdr hph
    rcases h with h | h | h
    · simp [h0] at h
    · exact h1 (by omega) h
    · exact h2 (by omega) h
  · obtain ⟨-, -, h'⟩ := hi.aflen hph
    simp only [viewHasPayload, viewHasAf, Option.map_eq_none_iff] at h h'
    simp [h] at h'
  · obtain ⟨-, -, r, -, hr, -⟩ := hi.af hph
    simp [hr] at h

/-- So no operation, whatever its operands, meets the fault from a state that meets R30. -/
theorem exec_ne_readNoValue (hi : Inv p s) (i : Instr) : exec i s ≠ .fault .readNoValue :=
  fun h => not_readsNoValue_of_inv hi (exec_readNoValue h)

end Sys2Proof.Machine
end

