-- ==== Sys2Proof/Laws/Views.lean ====
section
/-! SUPPORT. The views of `hdr` depend on `hdr` and `hdr_valid` only, and show the header `HB3` commits (10_state.md R28,
41_header_parser.md R165). -/

namespace Sys2Proof.Machine

variable {s t : State} {p : Params}

theorem viewWord_congr (h : t.hdr = s.hdr) (hv : t.hdrValid = s.hdrValid) : viewWord t = viewWord s := by
  simp [viewWord, h, hv]

theorem viewHasAf_congr (h : t.hdr = s.hdr) (hv : t.hdrValid = s.hdrValid) : viewHasAf t = viewHasAf s := by
  simp [viewHasAf, viewWord_congr h hv]

theorem viewHasPayload_congr (h : t.hdr = s.hdr) (hv : t.hdrValid = s.hdrValid) :
    viewHasPayload t = viewHasPayload s := by
  simp [viewHasPayload, viewWord_congr h hv]

theorem viewAfc_congr (h : t.hdr = s.hdr) (hv : t.hdrValid = s.hdrValid) : viewAfc t = viewAfc s := by
  simp [viewAfc, viewWord_congr h hv]

theorem viewRecord_congr (h : t.hdr = s.hdr) (hv : t.hdrValid = s.hdrValid) : viewRecord p t = viewRecord p s := by
  simp [viewRecord, viewWord_congr h hv]

/-- The presence booleans are the bits of `afc` (R102). -/
theorem hdrHasAf_afc (w : HdrWord) : hdrHasAf w = (hdrAfc w).getLsbD 1 := by simp [hdrAfc, hdrHasAf]

theorem hdrHasPayload_afc (w : HdrWord) : hdrHasPayload w = (hdrAfc w).getLsbD 0 := by simp [hdrAfc, hdrHasPayload]

/-- After the common part of `HB3` the view is the header it completed. -/
theorem viewWord_commitHeader {w : HdrWord} (r : HdrRecord) (h0 : s.hdr.lane0 = some (hdrByte w 0))
    (h1 : s.hdr.lane1 = some (hdrByte w 1)) (h2 : s.hdr.lane2 = some (hdrByte w 2)) :
    viewWord (commitHeader w r s) = some w := by
  simp [viewWord, commitHeader, hdrWord, h0, h1, h2, join_hdrByte]

end Sys2Proof.Machine
end

