-- ==== Sys2Proof/Tests/Slice0.lean ====
section
/-! SUPPORT. Tests. Expected values come from 95_test_vectors.md (the vector's id is named) or are worked out by hand from
the encodings of 30_encoding.md. Witnesses show that the hypotheses of the obligations can be met. -/

namespace Sys2Proof.Tests

open Sys2Proof Sys2Proof.Machine

/-! ### Well-formedness: one ill-formed term for each check -/

theorem test_wf_badsync_refuses_the_sync_byte : ¬(Instr.badsync 0x47).WellFormed := by decide
theorem test_wf_badsync_accepts_another : (Instr.badsync 0x46).WellFormed := by decide
theorem test_wf_pidcRaw_refuses_pat : ¬(Instr.pidcRaw 0x47 0 0 0 0x0000 0 1 0).WellFormed := by decide
theorem test_wf_pidcRaw_refuses_null : ¬(Instr.pidcRaw 0x47 0 0 0 0x1FFF 0 1 0).WellFormed := by decide
theorem test_wf_pidcRaw_accepts_ends :
    (Instr.pidcRaw 0x47 0 0 0 0x0001 0 1 0).WellFormed ∧ (Instr.pidcRaw 0x47 0 0 0 0x1FFE 0 1 0).WellFormed := by
  decide
theorem test_wf_aflenOverrun_refuses_183 : ¬(Instr.aflenOverrun 183).WellFormed := by decide
theorem test_wf_aflenResidual_refuses_183 : ¬(Instr.aflenResidual 183).WellFormed := by decide
theorem test_wf_aflenOk_refuses_184 : ¬(Instr.aflenOk 184).WellFormed := by decide

/-! ### Decoding: a word of every constructor, written out from its encoding -/

-- 30_encoding.md R91, R92: rst is bit 4
theorem test_decode_reset : decode .evt [0b00010000] = .ok (.reset, []) := by decide
theorem test_decode_clear : decode .evt [0b00001000] = .ok (.clear, []) := by decide
-- V-D1, V-D2: don't-care bits
theorem test_decode_dont_care_bits :
    decode .evt [0b00011111] = .ok (.reset, []) ∧ decode .evt [0b00001111] = .ok (.clear, []) ∧
      decode .evt [0b00000111] = .ok (.srcerr, []) ∧ decode .evt [0b00000011] = .ok (.nop, []) := by decide
theorem test_decode_srcerr : decode .evt [0b00000110] = .ok (.srcerr, []) := by decide
theorem test_decode_eos : decode .evt [0b00000101] = .ok (.eos, []) := by decide
theorem test_decode_byte : decode .evt [0b00000100, 0xB6, 0x01] = .ok (.byte 0xB6, [0x01]) := by decide
theorem test_decode_nop : decode .evt [0b00000000] = .ok (.nop, []) := by decide
theorem test_decode_evt_refuses_a_sixth_bit : decode .evt [0b00100000] = .error .evtTooWide := by decide
theorem test_decode_byte_needs_its_data : decode .evt [0b00000100] = .error .short := by decide
theorem test_decode_sync : decode (.b8 .idle 0) [0b01000111] = .ok (.sync, []) := by decide
theorem test_decode_badsync : decode (.b8 .idle 0) [0b11000111] = .ok (.badsync 0xC7, []) := by decide
-- tei = 1, pusi = 0, prio = 1, pid[12:8] = 0b00110
theorem test_decode_hb1 : decode (.b8 .hdr 1) [0b10100110] = .ok (.hb1 1 0 1 6, []) := by decide
theorem test_decode_hb2 : decode (.b8 .hdr 2) [0xFB] = .ok (.hb2 0xFB, []) := by decide
-- tsc = 0b10, afc = 0b01, cc = 0b1100
theorem test_decode_hb3 : decode (.b8 .hdr 3) [0b10011100] = .ok (.hb3 2 1 12, []) := by decide
-- V-H9, V-S9, V-H10, V-H11 header words
theorem test_decode_hdrAfc00 :
    decode .h32Class [0x47, 0x01, 0x00, 0x05] = .ok (.hdrAfc00 0 0 0 0x0100 0 5, []) := by decide
theorem test_decode_hdrAfc01 :
    decode .h32Class [0x47, 0x41, 0x00, 0x15] = .ok (.hdrAfc01 0 1 0 0x0100 0 5, []) := by decide
theorem test_decode_hdrAfc10 :
    decode .h32Class [0x47, 0x01, 0x00, 0x20] = .ok (.hdrAfc10 0 0 0 0x0100 0 0, []) := by decide
theorem test_decode_hdrAfc11 :
    decode .h32Class [0x47, 0x01, 0x00, 0x3C] = .ok (.hdrAfc11 0 0 0 0x0100 0 12, []) := by decide
theorem test_decode_class_refuses_bad_sync : decode .h32Class [0x48, 0x01, 0x00, 0x3C] = .error .badSyncField := by
  decide
-- V-H5, V-H6, V-H12
theorem test_decode_pidcPat :
    decode .h32Pid [0x47, 0x40, 0x00, 0x10] = .ok (.pidcPat 0x47 0 1 0 0 1 0, []) := by decide
theorem test_decode_pidcStuff :
    decode .h32Pid [0x47, 0x1F, 0xFF, 0x10] = .ok (.pidcStuff 0x47 0 0 0 0 1 0, []) := by decide
theorem test_decode_pidcRaw :
    decode .h32Pid [0x47, 0x1F, 0xFB, 0x10] = .ok (.pidcRaw 0x47 0 0 0 0x1FFB 0 1 0, []) := by decide
theorem test_decode_aflen : decode (.b8 .aflen 4) [0x07] = .ok (.aflen 7, []) := by decide
-- V-L8, V-L5, V-L7, V-L2
theorem test_decode_aflenOverrun : decode (.l8 false) [0xB8] = .ok (.aflenOverrun 184, []) := by decide
theorem test_decode_aflenResidual : decode (.l8 false) [0xB6] = .ok (.aflenResidual 182, []) := by decide
theorem test_decode_aflenOk :
    decode (.l8 false) [0xB7] = .ok (.aflenOk 183, []) ∧ decode (.l8 true) [0x00] = .ok (.aflenOk 0, []) := by decide
theorem test_decode_afbyte :
    decode (.b8 .af 187) [0xBB] = .ok (.afbyte 0xBB, []) ∧ decode (.b8 .af 4) [0xBB] = .error .noContext := by decide
theorem test_decode_paybyte : decode (.b8 .payload 4) [0x47] = .ok (.paybyte 0x47, []) := by decide
theorem test_decode_skipbyte :
    decode (.b8 .skip 187) [0x00] = .ok (.skipbyte 0x00, []) ∧ decode (.b8 .skip 188) [0x00] = .error .noContext := by
  decide
-- V-H1 and V-H15: every field at its maximum, and the three fields of byte 3
theorem test_record_of_words :
    record Config.params 0x47FFFFFF =
        { tei := 1, pusi := 1, prio := 1, pid := 0x1FFF, tsc := 3, afc := 3, cc := 15, hasAf := true,
          hasPayload := true, pidClass := .stuff } ∧
      record Config.params 0x470020D7 =
        { tei := 0, pusi := 0, prio := 0, pid := 0x0020, tsc := 3, afc := 1, cc := 7, hasAf := false,
          hasPayload := true, pidClass := .raw } := by decide

/-! ### The host's numbering (log 16) -/

theorem test_table_word_evt :
    decodeTableWord 8 0b10000 = some .reset ∧ decodeTableWord 8 0b00100 = some (.byte 0) ∧
      decodeTableWord 8 0 = some .nop := by decide
theorem test_table_word_b8 :
    decodeTableWord 8 0x47 = some .sync ∧ decodeTableWord 8 0xFF = some (.badsync 0xFF) := by decide
theorem test_table_word_h32 :
    decodeTableWord 32 0x47000020 = some (.hdrAfc10 0 0 0 0 0 0) ∧
      decodeTableWord 32 0x001FFF00 = some (.pidcStuff 0 0 0 0 0 0 0) ∧ decodeTableWord 24 0 = none := by decide

/-- The registers, the output and the samples left, of an outcome. -/
def after (r : Res) : Option State :=
  match r with
  | .next t => some t
  | .fault _ => none
  | .refused _ => none

theorem test_placed_words_run_first :
    (after (step (State.reset.withFetchWord 8 0x47))).map (fun t => (t.phase, t.pos)) = some (.hdr, 1) ∧
      (after (step (State.reset.withFetchWord 8 0b00101))).map State.out = some [.eos] ∧
      (after (step (State.reset.withFetchWord 32 0x47000010))).map (fun t => (t.phase, t.pos)) =
        some (.payload, 4) := by decide
theorem test_core_step : Sys2Proof.core.step State.reset = .next State.reset := by rfl

/-! ### Single steps -/

/-- Four captured lanes. -/
def lanes (b0 b1 b2 b3 : Byte) : HdrReg := { lane0 := some b0, lane1 := some b1, lane2 := some b2, lane3 := some b3 }

/-- A state as 95_test_vectors.md writes one. -/
def st (ph : Phase) (pos : Byte) (v : Bool) (c : Option Cause) (h : HdrReg) (afLen afRem : Option Byte) : State :=
  { phase := ph, pos := pos, hdr := h, hdrValid := v, afLen := afLen, afRem := afRem, errCause := c, input := [],
    out := [] }

/-- `HDR` at an offset, with sync and the bytes `41`, `00` as far as captured. -/
def inHdr (pos : Byte) : State :=
  st .hdr pos false none
    { lane0 := some 0x47, lane1 := if 2 ≤ pos.toNat then some 0x41 else none,
      lane2 := if 3 ≤ pos.toNat then some 0x00 else none, lane3 := none } none none

/-- At the length byte, byte 3 being `b3`. -/
def atLen (b3 : Byte) : State := st .aflen 4 true none (lanes 0x47 0x01 0x00 b3) none none

/-- A phase, `pos` and output, for comparison. -/
def seen (r : Res) : Option (Phase × Byte × List OutEvent) := (after r).map fun t => (t.phase, t.pos, t.out)

-- V-E1, V-E2
theorem test_reset :
    exec .reset (st .af 7 true none (lanes 0x47 0x01 0x00 0x30) (some 7) (some 5)) = .next State.reset := by rfl
theorem test_clear :
    exec .clear (st .af 7 true none (lanes 0x47 0x01 0x00 0x30) (some 7) (some 5)) =
      .next (st .idle 0 false none (lanes 0x47 0x01 0x00 0x30) (some 7) (some 5)) := by rfl
-- V-E9, V-E14
theorem test_srcerr :
    seen (exec .srcerr State.reset) = some (.err, 0, [.err .sourceIo 0]) := by decide
theorem test_srcerr_in_err :
    exec .srcerr (st .err 0 false (some .badSync) HdrReg.noValue none none) =
      .next (st .err 0 false (some .badSync) HdrReg.noValue none none) := by rfl
-- V-E3, V-E4
theorem test_eos_clean : exec .eos State.reset = .next { State.reset with out := [.eos] } := by rfl
theorem test_eos_truncates : seen (exec .eos (inHdr 1)) = some (.err, 1, [.err .truncated 1]) := by decide
-- V-S6: 0x47 inside a window is data; V-E12
theorem test_byte_47_in_payload :
    seen (exec (.byte 0x47) (st .payload 4 true none (lanes 0x47 0x01 0x00 0x10) none none)) =
      some (.payload, 5, [.payByte 0x47]) := by decide
theorem test_byte_in_err :
    seen (exec (.byte 0x47) (st .err 0 false (some .badSync) HdrReg.noValue none none)) = some (.err, 0, []) := by
  decide
-- V-E16
theorem test_nop : exec .nop (inHdr 2) = .next (inHdr 2) := by rfl
-- V-S5, V-S4
theorem test_sync :
    exec .sync (st .idle 0 true none (lanes 0x47 0x01 0x00 0x10) none none) =
      .next (st .hdr 1 false none (lanes 0x47 0x01 0x00 0x10) none none) := by rfl
theorem test_badsync :
    exec (.badsync 0xC7) (st .idle 0 true none (lanes 0x47 0x01 0x00 0x10) none none) =
      .next { st .err 0 false (some .badSync) (lanes 0xC7 0x01 0x00 0x10) none none with out := [.err .badSync 0] } := by rfl
-- V-S7, V-S8, V-S9
theorem test_hb1 : exec (.hb1 0 1 0 1) (inHdr 1) = .next (inHdr 2) := by rfl
theorem test_hb2 : exec (.hb2 0x00) (inHdr 2) = .next (inHdr 3) := by rfl
theorem test_hb3 :
    exec (.hb3 0 1 5) (inHdr 3) = .next
      { st .payload 4 true none (lanes 0x47 0x41 0x00 0x15) none none with
        out := [.hdr { tei := 0, pusi := 1, prio := 0, pid := 0x0100, tsc := 0, afc := 1, cc := 5, hasAf := false,
                       hasPayload := true, pidClass := .raw }] } := by rfl
-- V-H9, and the same header with the parameter false
theorem test_hdrAfc00 :
    (after (exec (.hdrAfc00 0 1 0 0x0100 0 5) (inHdr 3))).map (fun t => (t.phase, t.pos, t.hdrValid, t.errCause, t.out))
      = some (.err, 3, true, some .residual,
          [.hdr { tei := 0, pusi := 1, prio := 0, pid := 0x0100, tsc := 0, afc := 0, cc := 5, hasAf := false,
                  hasPayload := false, pidClass := .raw }, .err .residual 3]) := by decide
theorem test_hdrAfc00_skip :
    (after (react (Config.paramsWith false) (.byte 0x05) (inHdr 3))).map (fun t => (t.phase, t.pos, t.out.length)) =
      some (.skip, 4, 1) := by decide
theorem test_hdrAfc01 :
    (after (exec (.hdrAfc01 0 1 0 0x0100 0 5) (inHdr 3))).map (fun t => (t.phase, t.pos)) = some (.payload, 4) := by
  decide
theorem test_hdrAfc10 :
    (after (exec (.hdrAfc10 0 1 0 0x0100 0 0) (inHdr 3))).map (fun t => (t.phase, t.pos)) = some (.aflen, 4) := by
  decide
theorem test_hdrAfc11_needs_its_header :
    exec (.hdrAfc11 0 0 0 0x0100 0 12) (inHdr 3) = .fault .outOfContext := by rfl
-- V-H5, V-H6, V-H12
theorem test_pidcPat :
    (after (exec (.pidcPat 0x47 0 1 0 0 1 0) { inHdr 3 with hdr := lanes 0x47 0x40 0x00 0x99 })).map
      (fun t => (t.hdr.lane3, (viewRecord Config.params t).map HdrRecord.pidClass)) =
        some (some 0x10, some .pat) := by decide
theorem test_pidcStuff :
    (after (exec (.pidcStuff 0x47 0 0 0 0 1 0) { inHdr 3 with hdr := lanes 0x47 0x1F 0xFF 0x99 })).map
      (fun t => (viewRecord Config.params t).map HdrRecord.pidClass) = some (some .stuff) := by decide
theorem test_pidcRaw :
    (after (exec (.pidcRaw 0x47 0 0 0 0x1FFB 0 1 0) { inHdr 3 with hdr := lanes 0x47 0x1F 0xFB 0x99 })).map
      (fun t => (viewRecord Config.params t).map HdrRecord.pidClass) = some (some .raw) := by decide
-- V-L7 by the row AFLEN, V-L8, V-L5, V-L2
theorem test_aflen :
    exec (.aflen 183) (atLen 0x20) =
      .next { st .af 5 true none (lanes 0x47 0x01 0x00 0x20) (some 183) (some 183) with out := [.afLen 183] } := by rfl
theorem test_aflenOverrun :
    exec (.aflenOverrun 184) (atLen 0x20) =
      .next { st .err 4 true (some .afOverrun) (lanes 0x47 0x01 0x00 0x20) (some 184) none with
              out := [.err .afOverrun 4] } := by rfl
theorem test_aflenResidual :
    exec (.aflenResidual 182) (atLen 0x20) =
      .next { st .err 4 true (some .residual) (lanes 0x47 0x01 0x00 0x20) (some 182) none with
              out := [.err .residual 4] } := by rfl
theorem test_aflenResidual_not_with_payload : exec (.aflenResidual 182) (atLen 0x30) = .fault .outOfContext := by rfl
theorem test_aflenOk :
    exec (.aflenOk 0) (atLen 0x30) =
      .next { st .payload 5 true none (lanes 0x47 0x01 0x00 0x30) (some 0) (some 0) with out := [.afLen 0] } := by rfl
-- V-B2, V-B5
theorem test_afbyte_last_of_field :
    exec (.afbyte 0xFF) (st .af 11 true none (lanes 0x47 0x01 0x00 0x3C) (some 7) (some 1)) =
      .next { st .payload 12 true none (lanes 0x47 0x01 0x00 0x3C) (some 7) (some 0) with out := [.afByte 0xFF] } := by rfl
theorem test_afbyte_last_of_window :
    exec (.afbyte 0xBB) (st .af 187 true none (lanes 0x47 0x01 0x00 0x30) (some 183) (some 1)) =
      .next { st .idle 0 true none (lanes 0x47 0x01 0x00 0x30) (some 183) (some 0) with
              out := [.afByte 0xBB, .done] } := by rfl
-- V-B9, V-B8
theorem test_paybyte_to_187 :
    seen (exec (.paybyte 0x01) (st .payload 186 true none (lanes 0x47 0x01 0x00 0x10) none none)) =
      some (.payload, 187, [.payByte 0x01]) := by decide
theorem test_paybyte_done :
    seen (exec (.paybyte 0xAB) (st .payload 187 true none (lanes 0x47 0x01 0x00 0x10) none none)) =
      some (.idle, 0, [.payByte 0xAB, .done]) := by decide
-- 43_payload_done.md R221's example, and its last byte
theorem test_skipbyte :
    seen (exec (.skipbyte 0x00) (st .skip 4 true none (lanes 0x47 0x01 0x00 0x05) none none)) =
      some (.skip, 5, []) := by decide
theorem test_skipbyte_done :
    seen (exec (.skipbyte 0x00) (st .skip 187 true none (lanes 0x47 0x01 0x00 0x05) none none)) =
      some (.idle, 0, [.done]) := by decide

/-! ### Parameters, ports, status, notation -/

-- the side conditions of 93_implementation_defined.md U6
theorem test_parameters_fit : Config.params.Fits ∧ Config.params.budget = 184 ∧ Config.params.afLenMax = 183 := by
  decide

-- 60_exceptions.md R270: in `ERR` a beat does not transfer
theorem test_in_ready :
    inReady State.reset (byteSample 0) = true ∧
      inReady (st .err 0 false (some .badSync) HdrReg.noValue none none) (byteSample 0) = false := by decide
-- V-X6: err_kind, err_cause and err of S2
theorem test_status_s2 : statusS2 (st .err 2 false (some .sourceIo) HdrReg.noValue none none) = 0b10111 := by decide
-- log 14: after the `Done` of a window with a field S4 shows its length, in `IDLE` and in the `ERR` of a `SRCERR` there,
-- until the next window's byte 0
theorem test_status_s4_between_windows :
    let s := st .idle 0 true none (lanes 0x47 0x01 0x00 0x30) (some 7) (some 0)
    statusS4 s = some 7 ∧ (after (exec .srcerr s)).map statusS4 = some (some 7) ∧
      (after (exec .sync s)).map statusS4 = some none := by decide
-- V-L8 shows the rejected length; V-E6 has none, AFLEN not having run
theorem test_status_s4 :
    (after (exec (.aflen 184) (atLen 0x20))).map statusS4 = some (some 184) ∧
      (after (exec .eos { atLen 0x20 with afLen := some 7 })).map statusS4 = some none ∧ statusS4 (st .af 5 true none (lanes 0x47 0x01 0x00 0x30) (some 183) (some 183)) = some 183 := by
  decide
-- `NULLPKT cc=3` is `BYTES 47 1F FF 13` and 184 bytes FF (program P2)
theorem test_nullpkt :
    (Line.nullpkt 3).streamBytes = [0x47, 0x1F, 0xFF, 0x13] ++ List.replicate 184 0xFF := by rfl
-- values wrap modulo 256 (R112)
theorem test_ramp : (Line.ramp 3 0xFE).streamBytes = [0xFE, 0xFF, 0x00] := by decide

/-- The record of the header word of vector V-H11. -/
def recH11 : HdrRecord := record Config.params 0x4701003C

-- R226; `Eos` before the window is dropped (log 17), and a run that ends otherwise is no packet
theorem test_packetOf :
    (packetOf [.eos, .hdr recH11, .afLen 1, .afByte 0xAA, .payByte 0xBB, .done]).map
        (fun k => (k.pid, k.adaptation, k.payload)) = some (0x0100, some [0xAA], some [0xBB]) ∧
      packetOf [.hdr recH11, .afLen 1, .afByte 0xAA, .err .truncated 6] = none := by decide
-- R226: the cut at `CLEAR`, `Err` and `Done`; only the window that reaches `Done` is a packet
theorem test_packetsOf :
    (packetsOf [(.byte 0x3C, [.hdr recH11]), (.clear, []), (.byte 0x3C, [.hdr recH11]), (.eos, [.err .truncated 4]),
        (.clear, []), (.eos, [.eos]), (.byte 0x3C, [.hdr recH11]), (.byte 0x00, [.afLen 0]),
        (.byte 0xBB, [.payByte 0xBB, .done]), (.byte 0x3C, [.hdr recH11])]).map (fun k => k.payload) =
      [some [0xBB]] := by decide

/-! ### Witnesses -/

/-- Sample states that meet the invariants, one for each phase. -/
def inPay (pos : Byte) : State := st .payload pos true none (lanes 0x47 0x01 0x00 0x10) none none
/-- In the last byte of a field that fills the window; `has_payload = 0`. -/
def lastBody : State := st .af 187 true none (lanes 0x47 0x01 0x00 0x20) (some 183) (some 1)
/-- In the first of a field of `183` bytes. -/
def firstBody : State := st .af 5 true none (lanes 0x47 0x01 0x00 0x30) (some 183) (some 183)
/-- In the skip region, which only the other value of the OPEN parameter reaches. -/
def inSkip (pos : Byte) : State := st .skip pos true none (lanes 0x47 0x01 0x00 0x05) none none
/-- With an error latched. -/
def inErr : State := st .err 0 false (some .badSync) (lanes 0x48 0x01 0x00 0x10) none none

theorem witness_inv_reset : Inv Config.params State.reset :=
  ⟨by decide, by decide, by decide, nofun, nofun, nofun, nofun, nofun, nofun⟩
theorem witness_inv_hdr1 : Inv Config.params (inHdr 1) :=
  ⟨by decide, by decide, nofun, by decide, nofun, nofun, nofun, nofun, nofun⟩
theorem witness_inv_hdr3 : Inv Config.params (inHdr 3) :=
  ⟨by decide, by decide, nofun, by decide, nofun, nofun, nofun, nofun, nofun⟩
theorem witness_inv_aflen_without_payload : Inv Config.params (atLen 0x20) :=
  ⟨by decide, by decide, nofun, nofun, by decide, nofun, nofun, nofun, by decide⟩
theorem witness_inv_aflen_with_payload : Inv Config.params (atLen 0x30) :=
  ⟨by decide, by decide, nofun, nofun, by decide, nofun, nofun, nofun, by decide⟩
theorem witness_inv_af_last : Inv Config.params lastBody :=
  ⟨by decide, by decide, nofun, nofun, nofun, fun _ => ⟨rfl, by decide, 1, 183, by decide⟩, nofun, nofun, by decide⟩
theorem witness_inv_af_first : Inv Config.params firstBody :=
  ⟨by decide, by decide, nofun, nofun, nofun, fun _ => ⟨rfl, by decide, 183, 183, by decide⟩, nofun, nofun, by decide⟩
theorem witness_inv_payload_first : Inv Config.params (inPay 4) :=
  ⟨by decide, by decide, nofun, nofun, nofun, nofun, fun _ => ⟨rfl, by decide, .inl (by decide)⟩, nofun, by decide⟩
theorem witness_inv_payload_last : Inv Config.params (inPay 187) :=
  ⟨by decide, by decide, nofun, nofun, nofun, nofun, fun _ => ⟨rfl, by decide, .inl (by decide)⟩, nofun, by decide⟩
theorem witness_inv_skip : Inv (Config.paramsWith false) (inSkip 4) :=
  ⟨by decide, by decide, nofun, nofun, nofun, nofun, nofun, by decide, by decide⟩
theorem witness_inv_err : Inv Config.params inErr :=
  ⟨by decide, by decide, nofun, nofun, nofun, nofun, nofun, nofun, nofun⟩

/-- Every table holds an operation at the ends of its contexts, and the operations there are well formed. -/
theorem witness_DecodeOfEncodeIsTheOperation :
    ([(.evt, .byte 0xFF), (.b8 .idle 0, .sync), (.b8 .idle 0, .badsync 0x46), (.b8 .hdr 1, .hb1 1 1 1 31),
      (.b8 .hdr 2, .hb2 0), (.b8 .hdr 3, .hb3 3 3 15), (.b8 .aflen 4, .aflen 255), (.b8 .af 5, .afbyte 0),
      (.b8 .af 187, .afbyte 0), (.b8 .payload 4, .paybyte 0), (.b8 .payload 187, .paybyte 0), (.b8 .skip 4, .skipbyte 0),
      (.b8 .skip 187, .skipbyte 0), (.h32Class, .hdrAfc00 1 1 1 0x1FFF 3 15), (.h32Pid, .pidcRaw 0xFF 1 1 1 0x1FFE 3 3 15),
      (.h32Pid, .pidcRaw 0 0 0 0 1 0 0 0), (.l8 true, .aflenOverrun 184), (.l8 false, .aflenResidual 182),
      (.l8 false, .aflenOk 183), (.l8 true, .aflenOk 0)] : List (Table × Instr)).all
      (fun r => r.2.wf Config.params && r.1.holds r.2) = true := by decide
theorem witness_DecodeGivesARowOfItsTable :
    decode (.l8 true) [0xB7, 0x01] = .ok (.aflenOk 183, [0x01]) ∧ Table.l8 true ≠ .evt := by decide
theorem witness_PlacedWordIsTheNextOperation :
    decodeTableWord 8 0x47 = some .sync ∧ decodeTableWord 8 0x08 = some .clear ∧
      decodeTableWord 32 0x47FFFFFF = some (.hdrAfc11 1 1 1 0x1FFF 3 15) ∧
      decodeTableWord 32 0 = some (.pidcPat 0 0 0 0 0 0 0) := by decide
theorem witness_StepRunsTheDecodedEvent :
    { State.reset with input := [byteSample 0x47] }.input = byteSample 0x47 :: [] ∧ State.reset.input = [] := by decide
/-- A header that completes matches four rows, a rejected length three. -/
theorem witness_EveryMatchingRowIsTheStep :
    rowsOf Config.params { inHdr 3 with input := [byteSample 0x15] } =
        [.byte 0x15, .hb3 0 1 5, .hdrAfc01 0 1 0 0x0100 0 5, .pidcRaw 0x47 0 1 0 0x0100 0 1 5] ∧
      rowsOf Config.params { atLen 0x20 with input := [byteSample 182] } =
        [.byte 182, .aflen 182, .aflenResidual 182] ∧
      rowsOf Config.params { atLen 0x20 with input := [byteSample 184] } =
        [.byte 184, .aflen 184, .aflenOverrun 184] := by decide
theorem witness_PortsGiveTheEventByPriority :
    (sampleOfVec 0b11111 0).rst = true ∧
      ((sampleOfVec 0b01111 0).rst = false ∧ (sampleOfVec 0b01111 0).clear = true) ∧
      ((sampleOfVec 0b00111 0).rst = false ∧ (sampleOfVec 0b00111 0).clear = false ∧
        (sampleOfVec 0b00111 0).inValid = true ∧ State.reset.phase ≠ .err) ∧
      (quietPorts.rst = false ∧ quietPorts.clear = false ∧ quietPorts.inValid = false) ∧ inErr.phase = .err := by decide
theorem witness_PortRunsRefineEventRuns :
    { State.reset with input := [quietPorts, byteSample 0x47] }.input = [quietPorts, byteSample 0x47] := by decide
theorem witness_SrcerrRaisesSourceIo : State.reset.phase ≠ .err ∧ (inPay 187).phase ≠ .err := by decide
theorem witness_EosIsCleanOrTruncates :
    State.reset.phase = .idle ∧ ((inHdr 1).phase ≠ .idle ∧ (inHdr 1).phase ≠ .err) := by decide
theorem witness_NopKeepsTheState :
    (0b00011 : EvtVec) &&& 0b11100 = 0b00000 ∧
      (quietPorts.rst = false ∧ quietPorts.clear = false ∧ quietPorts.inValid = false) ∧
      inErr.phase = .err ∧ Event.byte 0x47 ≠ .reset ∧ Event.byte 0x47 ≠ .clear := by decide
/-- The contexts of the nine byte operations at the ends of their ranges. -/
theorem witness_ByteRunsTheOperationOfItsContext :
    (State.reset.phase = .idle ∧ State.reset.pos = 0) ∧ ((inHdr 1).phase = .hdr ∧ (inHdr 1).pos = 1) ∧
      ((inHdr 2).phase = .hdr ∧ (inHdr 2).pos = 2) ∧ ((inHdr 3).phase = .hdr ∧ (inHdr 3).pos = 3) ∧
      ((atLen 0x30).phase = .aflen ∧ (atLen 0x30).pos = 4) ∧ (firstBody.phase = .af ∧ firstBody.pos = 5) ∧
      (lastBody.phase = .af ∧ lastBody.pos = 187) ∧ ((inPay 4).phase = .payload ∧ (inPay 4).pos = 4) ∧
      ((inPay 187).phase = .payload ∧ (inPay 187).pos = 187) ∧ ((inSkip 4).phase = .skip ∧ (inSkip 4).pos = 4) ∧
      ((inSkip 187).phase = .skip ∧ (inSkip 187).pos = 187) ∧ inErr.phase = .err := by decide
/-- The three outcomes: an error, a byte inside the window, the last byte. -/
theorem witness_ByteCompletesAndMovesPos :
    (Inv Config.params (atLen 0x20) ∧ (seen (exec (.byte 182) (atLen 0x20))).map (·.1) = some .err) ∧
      (Inv Config.params (inPay 4) ∧ (seen (exec (.byte 0) (inPay 4))).map (·.2.1) = some 5) ∧
      Inv Config.params (inPay 187) ∧ (seen (exec (.byte 0) (inPay 187))).map (·.1) = some .idle :=
  ⟨⟨witness_inv_aflen_without_payload, by decide⟩, ⟨witness_inv_payload_first, by decide⟩, witness_inv_payload_last,
    by decide⟩
theorem witness_SyncOpensAWindow : State.reset.phase = .idle ∧ State.reset.pos = 0 := by decide
theorem witness_BadsyncRaisesAtOffsetZero :
    State.reset.phase = .idle ∧ State.reset.pos = 0 ∧ (0x46 : Byte) ≠ 0x47 ∧ (0x48 : Byte) ≠ 0x47 := by decide
theorem witness_HeaderBytesOneAndTwoAreCaptured :
    ((inHdr 1).phase = .hdr ∧ (inHdr 1).pos = 1) ∧ (inHdr 2).phase = .hdr ∧ (inHdr 2).pos = 2 := by decide
theorem witness_HbThreeCompletesTheHeader :
    (inHdr 3).phase = .hdr ∧ (inHdr 3).pos = 3 ∧ (inHdr 3).hdr.lane0 = some 0x47 ∧ (inHdr 3).hdr.lane1 = some 0x41 ∧
      (inHdr 3).hdr.lane2 = some 0x00 := by decide
theorem witness_ViewsEqualTheRecordAfterHbThree :
    ∃ t, exec (.hb3 0 0 5) (inHdr 3) = .next t ∧ t.phase = .err := ⟨_, rfl, rfl⟩
theorem witness_HeaderClassesGoToTheirRegion :
    completes (packHeader 0x47 0 1 0 0x0100 3 0b01 15) (inHdr 3) = true ∧
      completes (packHeader 0x47 0 1 0 0x0100 3 0b10 15) (inHdr 3) = true ∧
      completes (packHeader 0x47 0 1 0 0x0100 3 0b11 15) (inHdr 3) = true := by decide
theorem witness_AfcNeitherRaisesResidual :
    completes (packHeader 0x47 0 1 0 0x0100 0 0b00 5) (inHdr 3) = true := by decide
theorem witness_AfcNeitherSkipsWhenParameterFalse :
    (inHdr 3).phase = .hdr ∧ (inHdr 3).pos = 3 ∧ (inHdr 3).hdr.lane0 = some 0x47 ∧ (inHdr 3).hdr.lane1 = some 0x41 ∧
      (inHdr 3).hdr.lane2 = some 0x00 ∧ (0xCF : Byte).extractLsb' 4 2 = 0b00 := by decide
theorem witness_PidClassRowsReportTheirClass :
    completes (packHeader 0x47 0 1 0 0x0000 0 1 0) { inHdr 3 with hdr := lanes 0x47 0x40 0x00 0 } = true ∧
      completes (packHeader 0x47 0 0 0 0x1FFF 0 1 0) { inHdr 3 with hdr := lanes 0x47 0x1F 0xFF 0 } = true ∧
      completes (packHeader 0x47 0 0 0 0x1FFE 0 1 0) { inHdr 3 with hdr := lanes 0x47 0x1F 0xFE 0 } = true ∧
      completes (packHeader 0x47 0 0 0 0x0001 0 1 0) { inHdr 3 with hdr := lanes 0x47 0x00 0x01 0 } = true := by decide
theorem witness_AflenRejectsBadLengths :
    (atLen 0x20).phase = .aflen ∧ (atLen 0x20).pos = 4 ∧ 183 < (184 : Byte).toNat ∧
      viewHasPayload (atLen 0x20) = some false ∧ (182 : Byte).toNat < 183 := by decide
theorem witness_AflenOkAccepts :
    (atLen 0x30).phase = .aflen ∧ (atLen 0x30).pos = 4 ∧ viewHasPayload (atLen 0x30) = some true ∧
      viewHasPayload (atLen 0x20) = some false ∧ (183 : Byte).toNat ≤ 183 := by decide
theorem witness_AflenAcceptsIffTheWindowTiles :
    tiles Config.params true true 183 = true ∧ tiles Config.params true false 183 = true ∧
      tiles Config.params true false 182 = false ∧ tiles Config.params true true 184 = false ∧
      viewHasPayload (atLen 0x30) = some true := by decide
theorem witness_AfbytePassesOneBodyByte :
    (firstBody.phase = .af ∧ 5 ≤ firstBody.pos.toNat ∧ firstBody.pos.toNat ≤ 187 ∧ firstBody.afRem = some 183) ∧
      (lastBody.phase = .af ∧ lastBody.pos = 187 ∧ lastBody.afRem = some 1) := by decide
theorem witness_PaybytePassesOnePayloadByte :
    ((inPay 4).phase = .payload ∧ 4 ≤ (inPay 4).pos.toNat) ∧ (inPay 187).phase = .payload ∧
      (inPay 187).pos.toNat ≤ 187 := by decide
theorem witness_SkipbyteDropsOneByte :
    ((inSkip 4).phase = .skip ∧ 4 ≤ (inSkip 4).pos.toNat) ∧ (inSkip 187).phase = .skip ∧
      (inSkip 187).pos.toNat ≤ 187 := by decide

/-- The hypotheses the statements "raised exactly when" and `DoneExactlyAtTheLastByte` share, with the error or `Done`
emitted. -/
theorem witness_BadSyncRaisedExactlyOnAWrongFirstByte :
    Inv Config.params State.reset ∧ State.reset.out = [] ∧
      ∃ t, exec (Event.byte 0x48).toInstr State.reset = .next t ∧ .err .badSync 0 ∈ t.out :=
  ⟨witness_inv_reset, rfl, _, rfl, by decide⟩
theorem witness_TruncatedRaisedExactlyByEosInsideAWindow :
    (Inv Config.params (inHdr 1) ∧ (inHdr 1).out = [] ∧
      ∃ t, exec Event.eos.toInstr (inHdr 1) = .next t ∧ .err .truncated 1 ∈ t.out) ∧
    Inv Config.params (inPay 187) ∧ (inPay 187).out = [] ∧
      ∃ t, exec Event.eos.toInstr (inPay 187) = .next t ∧ .err .truncated 187 ∈ t.out :=
  ⟨⟨witness_inv_hdr1, rfl, _, rfl, by decide⟩, witness_inv_payload_last, rfl, _, rfl, by decide⟩
theorem witness_AfOverrunRaisedExactlyAboveTheBudget :
    Inv Config.params (atLen 0x30) ∧ (atLen 0x30).out = [] ∧
      ∃ t, exec (Event.byte 184).toInstr (atLen 0x30) = .next t ∧ .err .afOverrun 4 ∈ t.out :=
  ⟨witness_inv_aflen_with_payload, rfl, _, rfl, by decide⟩
theorem witness_ResidualRaisedExactlyWhenBytesRemain :
    (Inv (Config.paramsWith true) (inHdr 3) ∧ (inHdr 3).out = [] ∧
      ∃ t, react (Config.paramsWith true) (.byte 0x05) (inHdr 3) = .next t ∧ .err .residual 3 ∈ t.out) ∧
    Inv (Config.paramsWith true) (atLen 0x20) ∧ (atLen 0x20).out = [] ∧
      ∃ t, react (Config.paramsWith true) (.byte 182) (atLen 0x20) = .next t ∧ .err .residual 4 ∈ t.out :=
  ⟨⟨witness_inv_hdr3, rfl, _, rfl, by decide⟩, witness_inv_aflen_without_payload, rfl, _, rfl, by decide⟩
theorem witness_SourceIoRaisedExactlyBySrcerr :
    Inv Config.params lastBody ∧ lastBody.out = [] ∧
      ∃ t, exec Event.srcerr.toInstr lastBody = .next t ∧ .err .sourceIo 187 ∈ t.out :=
  ⟨witness_inv_af_last, rfl, _, rfl, by decide⟩
theorem witness_ErrorKindIsIoExactlyForSourceIo :
    causeCode (some .badSync) = 1 ∧ causeCode (some .residual) = 4 ∧ causeCode (some .sourceIo) = 5 := by decide
theorem witness_ErrorEntryIsPrecise :
    (∃ t, exec (.hb3 0 0 5) (inHdr 3) = .next t ∧ (inHdr 3).phase ≠ .err ∧ t.phase = .err ∧ t.out.length = 2) ∧
      ∃ t, exec (.aflen 184) (atLen 0x20) = .next t ∧ (atLen 0x20).phase ≠ .err ∧ t.phase = .err ∧ t.out.length = 1 :=
  ⟨⟨_, rfl, by decide, rfl, by decide⟩, _, rfl, by decide, rfl, by decide⟩
theorem witness_ErrIsStickyUntilTheHostActs :
    inErr.phase = .err ∧ exec (.byte 0x47) inErr = .next inErr ∧
      ∀ ev ∈ [Event.byte 0x47, .eos, .srcerr, .nop], ev ≠ .reset ∧ ev ≠ .clear :=
  ⟨rfl, rfl, by decide⟩
theorem witness_AtMostOneErrorUntilTheHostActs :
    (∀ ev ∈ [Event.byte 0x48, .eos], ev ≠ .reset ∧ ev ≠ .clear) ∧
      (runEvents Config.params [.byte 0x48, .eos] State.reset).map Prod.snd = some [.err .badSync 0] := by decide
/-- A step in each context, where the registers of the other contexts stay. -/
theorem witness_RegistersAreWrittenOnlyInTheirContexts :
    (∃ t, exec .sync State.reset = .next t) ∧ (∃ t, exec (.hb1 1 0 0 0) (inHdr 1) = .next t) ∧
      (∃ t, exec (.hb3 0 1 0) (inHdr 3) = .next t) ∧ (∃ t, exec (.aflen 0) (atLen 0x30) = .next t) ∧
      (∃ t, exec (.afbyte 0) lastBody = .next t ∧ t.phase ≠ .err) ∧ (∃ t, exec .clear inErr = .next t) ∧
      ∃ t, exec .eos (inPay 187) = .next t :=
  ⟨⟨_, rfl⟩, ⟨_, rfl⟩, ⟨_, rfl⟩, ⟨_, rfl⟩, ⟨_, rfl, by decide⟩, ⟨_, rfl⟩, _, rfl⟩
theorem witness_DoneExactlyAtTheLastByte :
    Inv Config.params lastBody ∧ lastBody.out = [] ∧ ∃ t, exec (Event.byte 0).toInstr lastBody = .next t ∧ .done ∈ t.out :=
  ⟨witness_inv_af_last, rfl, _, rfl, by decide⟩
theorem witness_StatusRegistersShowTheState :
    State.reset.hdrValid = false ∧ viewWord (inPay 187) = some 0x47010010 := by decide
theorem witness_EveryStepKeepsTheInvariants :
    Inv Config.params { inPay 187 with input := [byteSample 0xAB] } ∧
      ∃ t, step { inPay 187 with input := [byteSample 0xAB] } = .next t ∧ t.phase = .idle :=
  ⟨⟨by decide, by decide, nofun, nofun, nofun, nofun, fun _ => ⟨rfl, by decide, .inl (by decide)⟩, nofun, by decide⟩,
    _, rfl, rfl⟩
theorem witness_EveryEventKeepsTheInvariantsForEitherParameter :
    Inv (Config.paramsWith false) (inSkip 4) ∧
      ∃ t, react (Config.paramsWith false) (.byte 0) (inSkip 4) = .next t ∧ t.pos = 5 :=
  ⟨witness_inv_skip, _, rfl, rfl⟩
theorem witness_NoStepStops : Inv Config.params lastBody ∧ Inv (Config.paramsWith false) (inSkip 4) :=
  ⟨witness_inv_af_last, witness_inv_skip⟩
theorem witness_StepFunctionIsTheTransitionTable :
    Inv (Config.paramsWith false) (inSkip 4) ∧ (inSkip 4).out = [] ∧ Inv (Config.paramsWith true) (inHdr 3) ∧
      (inHdr 3).out = [] :=
  ⟨witness_inv_skip, rfl, witness_inv_hdr3, rfl⟩
/-- A window start with nothing captured, and one with an old window's values left. -/
theorem witness_WindowsAreIndependentOfEarlierState :
    AtWindowStart State.reset ∧ AtWindowStart (st .idle 0 true none (lanes 0x47 0x01 0x00 0x30) (some 7) (some 0)) := by
  decide
/-- A run of four bytes without an error. -/
theorem witness_WindowTilesExactly_short :
    AtWindowStart State.reset ∧ ([0x47, 0x01, 0x00, 0x10] : List Byte).length < 188 ∧
      ∃ t evs, runEvents (Config.paramsWith true) (([0x47, 0x01, 0x00, 0x10] : List Byte).map Event.byte) State.reset =
        some (t, evs) ∧ ∀ e ∈ evs, OutEvent.isErr e = false :=
  ⟨by decide, by decide, _, _, rfl, by decide⟩

/-- A header and payload bytes after it. -/
def windowBytes (n : Nat) : List Byte := [0x47, 0x01, 0x00, 0x10] ++ List.replicate n 0x00

/-- No error in the run of `bs` from reset. -/
def runsWell (bs : List Byte) : Bool :=
  match runEvents (Config.paramsWith true) (bs.map Event.byte) State.reset with
  | some r => r.2.all fun e => !OutEvent.isErr e
  | none => false

theorem runsWell_spec (bs : List Byte) : runsWell bs = true →
    ∃ t evs, runEvents (Config.paramsWith true) (bs.map Event.byte) State.reset = some (t, evs) ∧
      ∀ e ∈ evs, OutEvent.isErr e = false := by
  unfold runsWell
  split
  · rename_i r hr
    intro h
    exact ⟨r.1, r.2, hr, by simpa using h⟩
  · exact nofun

/-- A whole window without an error, and all but its last byte. -/
theorem witness_WindowTilesExactly_whole :
    (windowBytes 184).length = 188 ∧
      ∃ t evs, runEvents (Config.paramsWith true) ((windowBytes 184).map Event.byte) State.reset = some (t, evs) ∧
        ∀ e ∈ evs, OutEvent.isErr e = false :=
  ⟨by decide +kernel, runsWell_spec _ (by decide +kernel)⟩
theorem witness_TruncationRecordsTheBytesConsumed_last :
    (windowBytes 183).length = 187 ∧
      ∃ t evs, runEvents (Config.paramsWith true) ((windowBytes 183).map Event.byte) State.reset = some (t, evs) ∧
        ∀ e ∈ evs, OutEvent.isErr e = false :=
  ⟨by decide +kernel, runsWell_spec _ (by decide +kernel)⟩

theorem witness_PayloadOnlyWindowOutputs :
    AtWindowStart State.reset ∧ (0xDF : Byte).extractLsb' 4 2 = 0b01 ∧ (List.replicate 184 (0xFF : Byte)).length = 184 :=
  ⟨by decide, by decide, List.length_replicate⟩
/-- With payload at both ends of the length's range, and without payload. -/
theorem witness_WindowWithAdaptationFieldOutputs :
    AtWindowStart State.reset ∧
      ((0x30 : Byte).extractLsb' 4 2 = 0b11 ∧ ([] : List Byte).length = (0 : Byte).toNat ∧
        ([] : List Byte).length + (List.replicate 183 (0 : Byte)).length = 183) ∧
      (0x20 : Byte).extractLsb' 4 2 = 0b10 ∧ (List.replicate 183 (0 : Byte)).length = (183 : Byte).toNat ∧
        (List.replicate 183 (0 : Byte)).length + ([] : List Byte).length = 183 := by
  simp only [List.length_replicate]; decide
theorem witness_SkippedWindowOutputs :
    AtWindowStart State.reset ∧ (0x05 : Byte).extractLsb' 4 2 = 0b00 ∧ (List.replicate 184 (0 : Byte)).length = 184 :=
  ⟨by decide, by decide, List.length_replicate⟩
/-- One byte of a window, the least truncation. -/
theorem witness_TruncationRecordsTheBytesConsumed :
    AtWindowStart State.reset ∧ 1 ≤ ([0x47] : List Byte).length ∧ ([0x47] : List Byte).length ≤ 187 ∧
      ∃ t evs, runEvents (Config.paramsWith true) (([0x47] : List Byte).map Event.byte) State.reset = some (t, evs) ∧
        ∀ e ∈ evs, OutEvent.isErr e = false :=
  ⟨by decide, by decide, by decide, _, _, rfl, by decide⟩
theorem witness_PacketIsRebuiltFromTheEvents : ([0x10, 0xFF] : List Byte).length = (2 : Byte).toNat := by decide
theorem witness_HeaderLinesAreReadBack : AtWindowStart State.reset := by decide

end Sys2Proof.Tests
end

namespace Sys2Proof

/-- R101, read on the header word: the five low bits of window byte 1 stand above window byte 2. -/
theorem hdrPid_eq_append (h : HdrWord) : hdrPid h = (hdrByte h 1).extractLsb' 0 5 ++ hdrByte h 2 := by
  have high : (hdrByte h 1).extractLsb' 0 5 = h.extractLsb' 16 5 := by
    ext i hi
    simp [hdrByte, show i < 8 by omega]
  have join : h.extractLsb' 16 5 ++ h.extractLsb' 8 8 = h.extractLsb' 8 13 :=
    BitVec.extractLsb'_append_extractLsb'_eq_extractLsb' rfl
  rw [high]
  exact join.symm

/-- R101 on the single bytes: the PID of a joined header, big-endian. -/
theorem hdrPid_join (b0 b1 b2 b3 : Byte) :
    hdrPid (joinBytes b0 b1 b2 b3) = b1.extractLsb' 0 5 ++ b2 := by
  rw [hdrPid_eq_append, hdrByte_join1, hdrByte_join2]

/-- Joining the two parts of a PID is the shift and OR of R101. -/
theorem pidParts_append_eq_shift_or (high : BitVec 5) (low : Byte) :
    high ++ low = high.setWidth 13 <<< 8 ||| low.setWidth 13 := by
  rw [BitVec.append_def, BitVec.shiftLeftZeroExtend_eq, BitVec.setWidth'_eq]

/-- The upper bound of R101. -/
theorem hdrPid_toNat_le (h : HdrWord) : (hdrPid h).toNat ≤ 8191 := Nat.le_of_lt_succ (hdrPid h).isLt

/-- Settles O5: the PID's bits are two adjacent slices of the header word, in bytes 1 and 2, and their join is the
shift and OR of the rule. -/
theorem pidJoinsBytesOneAndTwo : Obligations.PidJoinsBytesOneAndTwo := by
  unfold Obligations.PidJoinsBytesOneAndTwo
  refine ⟨fun b0 b1 b2 b3 => ⟨?shiftOr, ?slice, hdrPid_toNat_le _⟩, ?examples⟩
  case shiftOr => rw [hdrPid_join, pidParts_append_eq_shift_or]
  case slice => rfl
  case examples => decide

end Sys2Proof

namespace Sys2Proof.Machine

/-! ### The framer's events, outside `ERR` and in it -/

/-- `SRCERR` outside `ERR` is the raise of `SOURCE_IO` (R133). -/
theorem exec_srcerr_of_phase_ne_err {s : State} (h : s.phase ≠ .err) :
    exec .srcerr s = .next (raise .sourceIo s) := by
  change Host.Outcome.next (srcerrOp s) = _
  rw [srcerrOp, if_neg h]

/-- In `ERR` every event but the host's two commands acts as `NOP` (R42, R136). -/
theorem react_of_phase_err {p : Params} {ev : Event} {s : State} (h : s.phase = .err)
    (hreset : ev ≠ .reset) (hclear : ev ≠ .clear) : react p ev s = .next s := by
  cases ev with
  | reset => exact absurd rfl hreset
  | clear => exact absurd rfl hclear
  | srcerr => simp [react, srcerrOp, nopOp, h]
  | eos => simp [react, eosOp, nopOp, h]
  | byte b => simp [react, byteOp, nopOp, h]
  | nop => rfl

/-! ### The vectors of `NOP` -/

/-- The mask of R92's `NOP` row leaves two don't-care bits, `in_err` and `in_eos`. -/
theorem eq_of_and_nopMask : ∀ e : EvtVec, e &&& 0b11100 = 0b00000 →
    e = 0b00000 ∨ e = 0b00001 ∨ e = 0b00010 ∨ e = 0b00011 := by decide

theorem decodeEvt_nop {e : EvtVec} (h : e &&& 0b11100 = 0b00000) (b : Byte) : decodeEvt e b = .nop := by
  obtain rfl | rfl | rfl | rfl := eq_of_and_nopMask e h <;> rfl

/-- Without a command and without a beat, the three bits the `NOP` row looks at are 0 (R91). -/
theorem evtVec_and_nopMask_of_quiet {s : State} {x : PortIn} (hrst : x.rst = false) (hclear : x.clear = false)
    (hvalid : x.inValid = false) : evtVec s x &&& 0b11100 = 0b00000 := by
  have hxfer : xfer s x = false := by simp [xfer, hvalid]
  rw [evtVec, hrst, hclear, hxfer]
  cases x.inErr <;> cases x.inEos <;> rfl

/-! ### Runs up to the model's own two fields -/

/-- What is seen of a run does not depend on the output list it starts from. -/
theorem runEvents_seen_out (p : Params) (evs : List Event) (s : State) (o : List OutEvent) :
    (runEvents p evs { s with out := o }).map registersAndOutput = (runEvents p evs s).map registersAndOutput := by
  cases evs with
  | nil => rfl
  | cons ev evs => rw [runEvents_out]

/-- An event in front of two runs that are seen alike from every state gives two runs that are seen alike. -/
theorem runEvents_seen_cons {p : Params} {evs evs' : List Event}
    (h : ∀ s, (runEvents p evs s).map registersAndOutput = (runEvents p evs' s).map registersAndOutput)
    (ev : Event) (s : State) :
    (runEvents p (ev :: evs) s).map registersAndOutput = (runEvents p (ev :: evs') s).map registersAndOutput := by
  cases hstep : react p ev { s with out := [] } with
  | next t =>
    have emitFirst (r : Option (State × List OutEvent)) :
        (r.map fun r => (r.1, t.out ++ r.2)).map registersAndOutput =
          (r.map registersAndOutput).map fun r => (r.1, t.out ++ r.2) := by
      cases r <;> rfl
    rw [runEvents_cons hstep, runEvents_cons hstep, emitFirst, emitFirst, h]
  | fault _ => simp [runEvents, hstep]
  | refused _ => simp [runEvents, hstep]

/-- A leading `NOP` only empties the output list the run starts from. -/
theorem runEvents_nop_cons (p : Params) (evs : List Event) (s : State) :
    runEvents p (.nop :: evs) s = runEvents p evs { s with out := [] } := by
  rw [runEvents_cons (t := { s with out := [] }) rfl]
  simp

/-- `NOP` events may be removed anywhere in a run (R136). -/
theorem runEvents_filter_nop (p : Params) (evs : List Event) (s : State) :
    (runEvents p evs s).map registersAndOutput =
      (runEvents p (evs.filter fun ev => ev ≠ .nop) s).map registersAndOutput := by
  induction evs generalizing s with
  | nil => rfl
  | cons ev evs ih =>
    by_cases hnop : ev = .nop
    · subst hnop
      rw [runEvents_nop_cons, runEvents_seen_out, List.filter_cons_of_neg (by simp)]
      exact ih s
    · rw [List.filter_cons_of_pos (by simpa using hnop)]
      exact runEvents_seen_cons ih ev s

end Sys2Proof.Machine

namespace Sys2Proof

open Machine

/-- Settles O15: outside `ERR` the row is `raise`, whose whole next state and cause are those of the statement. -/
theorem srcerrRaisesSourceIo : Obligations.SrcerrRaisesSourceIo := by
  unfold Obligations.SrcerrRaisesSourceIo
  refine ⟨fun b => ⟨rfl, rfl⟩, fun s hs => ?_⟩
  exact ⟨raise .sourceIo s, exec_srcerr_of_phase_ne_err hs, rfl, rfl⟩

/-- Settles O17: the vectors by their mask, the ports through it, `ERR` by the events, and the runs by induction on
the list of events. -/
theorem nopKeepsTheState : Obligations.NopKeepsTheState := by
  unfold Obligations.NopKeepsTheState
  refine ⟨fun e b he => decodeEvt_nop he b, fun s => rfl, ?ports, ?inErr, ?runs⟩
  case ports => exact fun s x hrst hclear hvalid => decodeEvt_nop (evtVec_and_nopMask_of_quiet hrst hclear hvalid) _
  case inErr =>
    intro s ev hph hreset hclear
    rw [exec_event]
    exact react_of_phase_err hph hreset hclear
  case runs => exact fun v evs s => runEvents_filter_nop (Config.paramsWith v) evs s

end Sys2Proof

namespace Sys2Proof

/-- In the context `(IDLE, 0)` the sync byte alone selects `SYNC` (R94). -/
theorem decodeB8_eq_sync_iff (p : Params) (b : Byte) : decodeB8 p .idle 0 b = .ok .sync ↔ b = p.syncByte := by
  by_cases hb : b = p.syncByte <;> simp [decodeB8, hb]

end Sys2Proof

namespace Sys2Proof.Machine

variable {p : Params} {s t : State} {b : Byte}

/-! ### The sync byte -/

/-- At a window's start `SYNC` captures the byte, drops the old header and goes on at offset 1 (R160). -/
theorem syncOp_of_windowStart (hsize : 2 ≤ p.pktSize) (hphase : s.phase = .idle) (hpos : s.pos = 0) :
    syncOp p s = .next (setPos 1 (setPhase .hdr (dropHeader (setLane0 p.syncByte s)))) := by
  have hcontext : atOffset .idle 0 s = true := atOffset_iff.mpr ⟨hphase, by simp [hpos]⟩
  have hinside : (setPhase .hdr (dropHeader (setLane0 p.syncByte s))).pos.toNat ≠ p.pktSize - 1 := by
    simp [hpos]
    omega
  rw [syncOp, inContext_of hcontext, advance_inside hinside]
  simp [hpos]

/-! ### The step that completes a header -/

/-- What `HB3` does when it answers: the word of lanes 0 to 2 and the step's byte is committed with its record, and its
class goes on (R164). -/
theorem hb3Op_next (h : hb3Op p b s = .next t) :
    ∃ w : HdrWord, s.hdr.lane0 = some (hdrByte w 0) ∧ s.hdr.lane1 = some (hdrByte w 1) ∧
      s.hdr.lane2 = some (hdrByte w 2) ∧ hdrByte w 3 = b ∧
      t = afterHeader p (hdrAfc w) (commitHeader w (record p w) s) := by
  obtain ⟨_, ht⟩ := inContext_next.mp h
  obtain ⟨b0, h0, ht⟩ := withValue_next.mp ht
  obtain ⟨b1, h1, ht⟩ := withValue_next.mp ht
  obtain ⟨b2, h2, ht⟩ := withValue_next.mp ht
  cases ht
  refine ⟨joinBytes b0 b1 b2 b, ?_, ?_, ?_, hdrByte_join3 .., rfl⟩
  · rw [hdrByte_join0, h0]
  · rw [hdrByte_join1, h1]
  · rw [hdrByte_join2, h2]

/-- `advance` takes back no event. -/
theorem out_prefix_advance (p : Params) (s : State) : s.out <+: (advance p s).out := by
  obtain ⟨_, h⟩ | ⟨_, h⟩ := advance_cases p s <;> simp [h]

/-- A header class goes on by `advance` from a phase of its own, or raises `RESIDUAL` (R167 to R170). -/
theorem afterHeader_cases (p : Params) (afc : BitVec 2) (s : State) :
    (∃ ph, afterHeader p afc s = advance p (setPhase ph s)) ∨ afterHeader p afc s = raise .residual s := by
  unfold afterHeader neitherRegion
  split
  · exact .inl ⟨.payload, rfl⟩
  split
  · exact .inl ⟨.aflen, rfl⟩
  split
  · exact .inl ⟨.aflen, rfl⟩
  split
  · exact .inr rfl
  · exact .inl ⟨.skip, rfl⟩

/-- No header class writes what the views read, nor takes back an event. -/
theorem afterHeader_keeps (p : Params) (afc : BitVec 2) (s : State) :
    (afterHeader p afc s).hdr = s.hdr ∧ (afterHeader p afc s).hdrValid = s.hdrValid ∧
      s.out <+: (afterHeader p afc s).out := by
  obtain ⟨ph, h⟩ | h := afterHeader_cases p afc s
  · rw [h]
    exact ⟨advance_hdr .., advance_hdrValid .., out_prefix_advance p (setPhase ph s)⟩
  · rw [h]
    exact ⟨rfl, rfl, List.prefix_append ..⟩

@[simp] theorem commitHeader_out (w : HdrWord) (r : HdrRecord) (s : State) :
    (commitHeader w r s).out = s.out ++ [.hdr r] := rfl

/-- After `HB3` the views show a header word, and the first event emitted is `Hdr` with that word's record (R164,
R165). -/
theorem hb3Op_shows_and_emits_header (h : hb3Op p b s = .next t) :
    ∃ (w : HdrWord) (more : List OutEvent),
      viewWord t = some w ∧ t.out = s.out ++ .hdr (record p w) :: more := by
  obtain ⟨w, h0, h1, h2, _, rfl⟩ := hb3Op_next h
  obtain ⟨hhdr, hvalid, more, hmore⟩ := afterHeader_keeps p (hdrAfc w) (commitHeader w (record p w) s)
  refine ⟨w, more, ?view, ?out⟩
  case view => rw [viewWord_congr hhdr hvalid, viewWord_commitHeader _ h0 h1 h2]
  case out => rw [← hmore, commitHeader_out, ← List.append_cons]

end Sys2Proof.Machine

namespace Sys2Proof

open Machine

/-- Settles O24: the views and the first event show one header word, and each value of its record is by definition the
function of the word that the rule lists. -/
theorem viewsEqualTheRecordAfterHbThree : Obligations.ViewsEqualTheRecordAfterHbThree := by
  unfold Obligations.ViewsEqualTheRecordAfterHbThree
  intro s t tsc afc cc hstep
  obtain ⟨w, more, hview, hout⟩ := hb3Op_shows_and_emits_header (p := Config.params) hstep
  have hrecord : viewRecord Config.params t = some (record Config.params w) := by
    rw [viewRecord, hview, Option.map_some]
  exact ⟨w, record Config.params w, more, hview, hout, hrecord, rfl, rfl, rfl, rfl, rfl, rfl, rfl, rfl, rfl, rfl⟩

/-- Settles O20: the choice of the row by the byte, and the row's step at the hardware's parameters. -/
theorem syncOpensAWindow : Obligations.SyncOpensAWindow := by
  unfold Obligations.SyncOpensAWindow
  refine ⟨decodeB8_eq_sync_iff Config.params, fun s hphase hpos => ?_⟩
  exact syncOp_of_windowStart (p := Config.params) (by decide) hphase hpos

end Sys2Proof

namespace Sys2Proof.Machine

variable {p : Params} {s : State} {b r : Byte}

/-! ### A body byte of the adaptation field -/

/-- In its context `AFBYTE` is the body byte's step (R196). -/
theorem afbyteOp_of_context (hregion : inRegion p .af (p.hdrSize + 1) s = true) (hrem : s.afRem = some r)
    (hlow : 1 ≤ r.toNat) (hhigh : r.toNat ≤ p.afLenMax) : afbyteOp p b s = .next (bodyByte p b r s) := by
  rw [afbyteOp, inContext_of hregion, hrem, withValue_some, inContext_of (decide_eq_true ⟨hlow, hhigh⟩)]

/-- At the window's last offset no `PAYLOAD` assignment is made, whatever `af_rem` was (R196). -/
theorem bodyByte_last (hpos : s.pos.toNat = p.pktSize - 1) :
    bodyByte p b r s = setPos 0 (setPhase .idle (emit .done (setAfRem (r - 1) (emit (.afByte b) s)))) := by
  have hnotInside : ¬(r = 1 ∧ s.pos.toNat < p.pktSize - 1) := fun h => h.2.ne hpos
  rw [bodyByte, if_neg hnotInside]
  exact advance_last hpos

/-- Before the window's last offset the field's last body byte alone changes the phase (R196). -/
theorem bodyByte_inside (hpos : s.pos.toNat < p.pktSize - 1) :
    bodyByte p b r s =
      setPos (s.pos + 1) (setPhase (if r = 1 then .payload else s.phase)
        (setAfRem (r - 1) (emit (.afByte b) s))) := by
  by_cases hr : r = 1
  · rw [bodyByte, if_pos ⟨hr, hpos⟩, if_pos hr]
    exact advance_inside hpos.ne
  · rw [bodyByte, if_neg fun h => hr h.1, if_neg hr]
    exact advance_inside hpos.ne

end Sys2Proof.Machine

namespace Sys2Proof

open Machine

/-- Settles O32: `AFBYTE` is the body byte's step, which ends the window at offset 187 and goes on inside it. -/
theorem afbytePassesOneBodyByte : Obligations.AfbytePassesOneBodyByte := by
  unfold Obligations.AfbytePassesOneBodyByte
  intro s b r hphase hlow hhigh hrem hrlow hrhigh
  have hregion : inRegion Config.params .af 5 s = true := inRegion_iff.mpr ⟨hphase, hlow, Nat.lt_succ_of_le hhigh⟩
  have hstep : exec (.afbyte b) s = .next (bodyByte Config.params b r s) :=
    afbyteOp_of_context hregion hrem hrlow hrhigh
  rw [hstep]
  by_cases hlast : s.pos = 187
  · have hpos : s.pos.toNat = Config.params.pktSize - 1 := by rw [hlast]; rfl
    rw [if_pos hlast, bodyByte_last hpos]
    simp [setPos, setPhase, setAfRem, emit]
  · have hpos : s.pos.toNat < Config.params.pktSize - 1 :=
      lt_of_le_of_ne hhigh fun h => hlast (BitVec.eq_of_toNat_eq h)
    rw [if_neg hlast, bodyByte_inside hpos, hphase]
    rfl

end Sys2Proof

namespace Sys2Proof.Machine

/-! ### A byte of the payload -/

/-- In its context `PAYBYTE` emits its byte and goes on by the advance law (R220, R222). -/
theorem paybyteOp_of_context {p : Params} {s : State} {b : Byte}
    (hregion : inRegion p .payload p.hdrSize s = true) :
    paybyteOp p b s = .next (advance p (emit (.payByte b) s)) := inContext_of hregion _

/-- A byte operation that emits an event at the last offset of the window: `Done` follows the event (R137, R220). -/
theorem advance_emit_last {p : Params} {e : OutEvent} {s : State} (hpos : s.pos.toNat = p.pktSize - 1) :
    advance p (emit e s) = { s with phase := .idle, pos := 0, out := s.out ++ [e, .done] } := by
  rw [advance_last (s := emit e s) hpos]
  simp [setPos, setPhase, emit]

/-- A byte operation that emits an event before the last offset of the window: `pos` moves on (R137). -/
theorem advance_emit_inside {p : Params} {e : OutEvent} {s : State} (hpos : s.pos.toNat ≠ p.pktSize - 1) :
    advance p (emit e s) = { s with pos := s.pos + 1, out := s.out ++ [e] } :=
  advance_inside (s := emit e s) hpos

end Sys2Proof.Machine

namespace Sys2Proof

open Machine

/-- Settles O33: `PAYBYTE` emits its byte, and the advance law ends the window at offset 187 and goes on inside it. -/
theorem paybytePassesOnePayloadByte : Obligations.PaybytePassesOnePayloadByte := by
  unfold Obligations.PaybytePassesOnePayloadByte
  intro s b hphase hlow hhigh
  have hregion : inRegion Config.params .payload 4 s = true :=
    inRegion_iff.mpr ⟨hphase, hlow, Nat.lt_succ_of_le hhigh⟩
  have hstep : exec (.paybyte b) s = .next (advance Config.params (emit (.payByte b) s)) :=
    paybyteOp_of_context hregion
  rw [hstep]
  by_cases hlast : s.pos = 187
  · have hpos : s.pos.toNat = Config.params.pktSize - 1 := by rw [hlast]; rfl
    rw [if_pos hlast, advance_emit_last hpos]
  · have hpos : s.pos.toNat ≠ Config.params.pktSize - 1 := fun h => hlast (BitVec.eq_of_toNat_eq h)
    rw [if_neg hlast, advance_emit_inside hpos]

end Sys2Proof

namespace Sys2Proof.Machine

/-! ### The error kind -/

/-- The kind is I/O for the cause `SOURCE_IO` alone (R241, R247). -/
theorem errKind_eq_true_iff (s : State) : errKind s = true ↔ s.errCause = some .sourceIo := by
  unfold errKind
  cases s.errCause with
  | none => simp
  | some c => cases c <;> simp [Cause.isIo]

/-- Code 5 is `SOURCE_IO` (R241). -/
theorem causeCode_eq_five_iff (c : Option Cause) : causeCode c = 5 ↔ c = some .sourceIo := by
  cases c with
  | none => decide
  | some c => cases c <;> decide

/-! ### The error an event raises (R242 to R246) -/

/-- The error of a stream byte, by its context. -/
def causeOfByte (p : Params) (s : State) (b : Byte) : Option Cause :=
  match s.phase with
  | .idle => if b = p.syncByte then none else some .badSync
  | .hdr => if s.pos = 3 ∧ b.extractLsb' 4 2 = 0b00 ∧ p.afc00Residual = true then some .residual else none
  | .aflen =>
    if p.afLenMax < b.toNat then some .afOverrun
    else if viewHasPayload s = some false ∧ b.toNat < p.afLenMax then some .residual
    else none
  | .af => none
  | .payload => none
  | .skip => none
  | .err => none

/-- The error of an event. -/
def causeOf (p : Params) (s : State) (ev : Event) : Option Cause :=
  match ev with
  | .reset => none
  | .clear => none
  | .srcerr => if s.phase = .err then none else some .sourceIo
  | .eos => if s.phase = .err ∨ s.phase = .idle then none else some .truncated
  | .byte b => causeOfByte p s b
  | .nop => none

section causeOf
variable {p : Params} {s : State} {ev : Event}

theorem causeOf_eq_badSync_iff :
    causeOf p s ev = some .badSync ↔ ∃ b : Byte, ev = .byte b ∧ s.phase = .idle ∧ b ≠ p.syncByte := by
  cases ev with
  | byte b => cases hph : s.phase <;> grind [causeOf, causeOfByte]
  | srcerr | eos | reset | clear | nop => simp [causeOf]

theorem causeOf_eq_truncated_iff :
    causeOf p s ev = some .truncated ↔ ev = .eos ∧ s.phase ≠ .err ∧ s.phase ≠ .idle := by
  cases ev with
  | byte b => cases hph : s.phase <;> grind [causeOf, causeOfByte]
  | srcerr | eos | reset | clear | nop => simp [causeOf]

theorem causeOf_eq_afOverrun_iff :
    causeOf p s ev = some .afOverrun ↔ ∃ b : Byte, ev = .byte b ∧ s.phase = .aflen ∧ p.afLenMax < b.toNat := by
  cases ev with
  | byte b => cases hph : s.phase <;> grind [causeOf, causeOfByte]
  | srcerr | eos | reset | clear | nop => simp [causeOf]

theorem causeOf_eq_residual_iff :
    causeOf p s ev = some .residual ↔ ∃ b : Byte, ev = .byte b ∧
      ((s.phase = .hdr ∧ s.pos = 3 ∧ b.extractLsb' 4 2 = 0b00 ∧ p.afc00Residual = true) ∨
        (s.phase = .aflen ∧ viewHasPayload s = some false ∧ b.toNat < p.afLenMax)) := by
  cases ev with
  | byte b => cases hph : s.phase <;> grind [causeOf, causeOfByte]
  | srcerr | eos | reset | clear | nop => simp [causeOf]

theorem causeOf_eq_sourceIo_iff : causeOf p s ev = some .sourceIo ↔ ev = .srcerr ∧ s.phase ≠ .err := by
  cases ev with
  | byte b => cases hph : s.phase <;> grind [causeOf, causeOfByte]
  | srcerr | eos | reset | clear | nop => simp [causeOf]

end causeOf

/-! ### What the byte operations of a field answer -/

section answers
variable {p : Params} {s t : State} {b len : Byte}

/-- What the length byte does when it answers (R191 to R194). -/
theorem aflenOp_next (h : aflenOp p len s = .next t) :
    (p.afLenMax < len.toNat ∧ t = lengthOverrun len s) ∨
      (len.toNat < p.afLenMax ∧ viewHasPayload s = some false ∧ t = lengthResidual len s) ∨
      (len.toNat ≤ p.afLenMax ∧ ¬(viewHasPayload s = some false ∧ len.toNat < p.afLenMax) ∧
        t = lengthAccepted p len s) := by
  obtain ⟨-, ht⟩ := inContext_next.mp h
  split at ht
  case isTrue hover => cases ht; exact .inl ⟨hover, rfl⟩
  case isFalse hfits =>
    obtain ⟨hasPayload, hview, ht⟩ := withValue_next.mp ht
    split at ht
    case isTrue hshort => cases ht; exact .inr (.inl ⟨hshort.2, by rw [hview, hshort.1], rfl⟩)
    case isFalse haccepted =>
      cases ht
      exact .inr (.inr ⟨Nat.le_of_not_lt hfits, by simpa [hview] using haccepted, rfl⟩)

/-- `AFBYTE` answers with the body byte's step (R196). -/
theorem afbyteOp_next (h : afbyteOp p b s = .next t) : ∃ r : Byte, t = bodyByte p b r s := by
  obtain ⟨-, ht⟩ := inContext_next.mp h
  obtain ⟨r, -, ht⟩ := withValue_next.mp ht
  obtain ⟨-, ht⟩ := inContext_next.mp ht
  cases ht
  exact ⟨r, rfl⟩

end answers

/-! ### The errors in the output of a step -/

/-- From `s` to `t` the output list gains the error `c`, if any, at the `pos` of `s`, and no other. -/
def EmitsError (s t : State) (c : Option Cause) : Prop :=
  t.out.filter OutEvent.isErr = s.out.filter OutEvent.isErr ++ c.toList.map (.err · s.pos)

section emitsError
variable {p : Params} {s t : State} {b : Byte}

/-- `Done`, the one event of the advance law, is no error (R137). -/
@[simp] theorem filter_isErr_advance : (advance p s).out.filter OutEvent.isErr = s.out.filter OutEvent.isErr := by
  obtain ⟨-, h⟩ | ⟨-, h⟩ := advance_cases p s <;> simp [h, OutEvent.isErr]

/-- Register writes before a `raise`, of neither the output list nor `pos`, do not matter (R250). -/
theorem emitsError_raise {s' : State} (c : Cause) (hout : s'.out = s.out) (hpos : s'.pos = s.pos) :
    EmitsError s (raise c s') (some c) := by
  simp [EmitsError, hout, hpos, OutEvent.isErr]

/-- A step that keeps the output list emits no error. -/
theorem emitsError_none_of_out_eq (hout : t.out = s.out) : EmitsError s t none := by simp [EmitsError, hout]

/-- The adaptation-field control is in window byte 3 (R95). -/
theorem hdrAfc_eq_hdrByte3 (w : HdrWord) : hdrAfc w = (hdrByte w 3).extractLsb' 4 2 := by
  ext i hi
  simp [hdrAfc, hdrByte]

/-- A header class raises an error only for `afc = 00`, and only if the parameter is true (R167 to R170). -/
theorem emitsError_afterHeader (afc : BitVec 2) (s : State) :
    EmitsError s (afterHeader p afc s)
      (if afc = 0b00 ∧ p.afc00Residual = true then some .residual else none) := by
  have hafc : ∀ a : BitVec 2, a = 0b01 ∨ a = 0b10 ∨ a = 0b11 ∨ a = 0b00 := by decide
  obtain ⟨hPayload, hField, hBoth, hNeither⟩ := afterHeader_eq p s
  obtain rfl | rfl | rfl | rfl := hafc afc
  · rw [hPayload, payloadOnly]; simp [EmitsError]
  · rw [hField, fieldOnly]; simp [EmitsError]
  · rw [hBoth, fieldAndPayload]; simp [EmitsError]
  · rw [hNeither, neitherRegion]
    cases hparam : p.afc00Residual with
    | true => simpa using emitsError_raise (s := s) .residual rfl rfl
    | false => simp [EmitsError]

/-- `HB3` emits `Hdr` first, which is no error (R164). -/
theorem emitsError_hb3Op (h : hb3Op p b s = .next t) :
    EmitsError s t (if b.extractLsb' 4 2 = 0b00 ∧ p.afc00Residual = true then some .residual else none) := by
  obtain ⟨w, -, -, -, rfl, rfl⟩ := hb3Op_next h
  have hpos : (commitHeader w (record p w) s).pos = s.pos := rfl
  have hclass := emitsError_afterHeader (p := p) (hdrAfc w) (commitHeader w (record p w) s)
  rw [EmitsError, hpos, commitHeader_out, List.filter_append] at hclass
  simpa [EmitsError, OutEvent.isErr, hdrAfc_eq_hdrByte3] using hclass

theorem emitsError_headerByte (hph : s.phase = .hdr) (h : byteOp p b s = .next t) :
    EmitsError s t (causeOfByte p s b) := by
  simp only [byteOp, hph] at h
  split at h
  case isTrue hone =>
    obtain ⟨-, ht⟩ := inContext_next.mp h
    cases ht
    simp [EmitsError, causeOfByte, hph, hone]
  split at h
  case isTrue htwo =>
    obtain ⟨-, ht⟩ := inContext_next.mp h
    cases ht
    simp [EmitsError, causeOfByte, hph, htwo]
  split at h
  case isTrue hthree => simpa [causeOfByte, hph, hthree] using emitsError_hb3Op h
  case isFalse => cases h

theorem emitsError_aflenOp (hph : s.phase = .aflen) {len : Byte} (h : aflenOp p len s = .next t) :
    EmitsError s t (causeOfByte p s len) := by
  obtain ⟨hover, rfl⟩ | ⟨hshort, hview, rfl⟩ | ⟨hfits, haccepted, rfl⟩ := aflenOp_next h
  · have hcause : causeOfByte p s len = some .afOverrun := by simp [causeOfByte, hph, hover]
    rw [hcause]
    exact emitsError_raise .afOverrun rfl rfl
  · have hcause : causeOfByte p s len = some .residual := by
      simp [causeOfByte, hph, hshort, hshort.not_gt, hview]
    rw [hcause]
    exact emitsError_raise .residual rfl rfl
  · simp [EmitsError, causeOfByte, hph, hfits, haccepted, lengthAccepted, OutEvent.isErr]

theorem emitsError_bodyByte (b r : Byte) (s : State) : EmitsError s (bodyByte p b r s) none := by
  unfold bodyByte
  split <;> simp [EmitsError, OutEvent.isErr]

/-- The error a byte adds to the output is that of its context. -/
theorem emitsError_byteOp (h : byteOp p b s = .next t) : EmitsError s t (causeOfByte p s b) := by
  cases hph : s.phase with
  | idle =>
    simp only [byteOp, hph] at h
    split at h
    case isTrue hsync =>
      obtain ⟨-, ht⟩ := inContext_next.mp h
      cases ht
      simp [EmitsError, causeOfByte, hph, hsync]
    case isFalse hbad =>
      obtain ⟨-, ht⟩ := inContext_next.mp h
      cases ht
      have hcause : causeOfByte p s b = some .badSync := by simp [causeOfByte, hph, hbad]
      rw [hcause]
      exact emitsError_raise .badSync rfl rfl
  | hdr => exact emitsError_headerByte hph h
  | aflen =>
    simp only [byteOp, hph] at h
    exact emitsError_aflenOp hph h
  | af =>
    simp only [byteOp, hph] at h
    obtain ⟨r, rfl⟩ := afbyteOp_next h
    simpa [causeOfByte, hph] using emitsError_bodyByte b r s
  | payload =>
    simp only [byteOp, hph] at h
    obtain ⟨-, ht⟩ := inContext_next.mp h
    cases ht
    simp [EmitsError, causeOfByte, hph, OutEvent.isErr]
  | skip =>
    simp only [byteOp, hph] at h
    obtain ⟨-, ht⟩ := inContext_next.mp h
    cases ht
    simp [EmitsError, causeOfByte, hph]
  | err =>
    simp only [byteOp, hph] at h
    cases h
    have hcause : causeOfByte p s b = none := by simp [causeOfByte, hph]
    rw [hcause]
    exact emitsError_none_of_out_eq rfl

/-- The error an event adds to the output: at most one, at the offset the step started from. -/
theorem emitsError_react {ev : Event} (h : react p ev s = .next t) : EmitsError s t (causeOf p s ev) := by
  cases ev with
  | byte b => exact emitsError_byteOp h
  | srcerr =>
    cases h
    by_cases herr : s.phase = .err
    · rw [causeOf, srcerrOp, if_pos herr, if_pos herr]
      exact emitsError_none_of_out_eq rfl
    · rw [causeOf, srcerrOp, if_neg herr, if_neg herr]
      exact emitsError_raise .sourceIo rfl rfl
  | eos =>
    cases h
    by_cases herr : s.phase = .err
    · rw [causeOf, eosOp, if_pos herr, if_pos (.inl herr)]
      exact emitsError_none_of_out_eq rfl
    by_cases hidle : s.phase = .idle
    · simp [EmitsError, causeOf, eosOp, hidle, OutEvent.isErr]
    · rw [causeOf, eosOp, if_neg herr, if_neg hidle, if_neg (not_or.mpr ⟨herr, hidle⟩)]
      exact emitsError_raise .truncated rfl rfl
  | reset | clear | nop =>
    cases h
    exact emitsError_none_of_out_eq rfl

/-- From an empty output list, a step emits `Err(c, q)` iff the event raises `c`, and `q` is `pos`. -/
theorem err_mem_react_iff {ev : Event} (hout : s.out = []) (h : react p ev s = .next t) (c : Cause) (q : Byte) :
    .err c q ∈ t.out ↔ causeOf p s ev = some c ∧ q = s.pos := by
  have hfilter : .err c q ∈ t.out ↔ .err c q ∈ t.out.filter OutEvent.isErr := by simp [OutEvent.isErr]
  rw [hfilter, emitsError_react h, hout]
  simp [eq_comm]

theorem exists_err_mem_react_iff {ev : Event} (hout : s.out = []) (h : react p ev s = .next t) (c : Cause) :
    (∃ q : Byte, .err c q ∈ t.out) ↔ causeOf p s ev = some c := by
  simp [err_mem_react_iff hout h]

end emitsError

/-! ### The presence of field and payload, on the views -/

section views
variable {p : Params} {s t : State} {b : Byte}

theorem viewHasAf_eq (s : State) : viewHasAf s = (viewAfc s).map (·.getLsbD 1) := by
  rw [viewHasAf, viewAfc, Option.map_map]
  exact congrArg (Option.map · _) (funext hdrHasAf_afc)

theorem viewHasPayload_eq (s : State) : viewHasPayload s = (viewAfc s).map (·.getLsbD 0) := by
  rw [viewHasPayload, viewAfc, Option.map_map]
  exact congrArg (Option.map · _) (funext hdrHasPayload_afc)

/-- In a window with a field, no payload is `afc = 10` (R102). -/
theorem viewHasPayload_eq_false_iff (haf : viewHasAf s = some true) :
    viewHasPayload s = some false ↔ viewAfc s = some 0b10 := by
  have bits : ∀ a : BitVec 2, a.getLsbD 1 = true → (a.getLsbD 0 = false ↔ a = 0b10) := by decide
  rw [viewHasAf_eq] at haf
  obtain ⟨a, hafc, ha⟩ := Option.map_eq_some_iff.mp haf
  simpa [viewHasPayload_eq, hafc] using bits a ha

/-- After `HB3` the view `afc` is that of its byte (R164, R165). -/
theorem viewAfc_of_hb3Op (h : hb3Op p b s = .next t) : viewAfc t = some (b.extractLsb' 4 2) := by
  obtain ⟨w, h0, h1, h2, rfl, rfl⟩ := hb3Op_next h
  obtain ⟨hhdr, hvalid, -⟩ := afterHeader_keeps p (hdrAfc w) (commitHeader w (record p w) s)
  rw [viewAfc_congr hhdr hvalid, viewAfc, viewWord_commitHeader _ h0 h1 h2, Option.map_some, hdrAfc_eq_hdrByte3]

/-- The length byte does not change the view `has_payload`. -/
theorem viewHasPayload_of_aflenOp {len : Byte} (h : aflenOp p len s = .next t) :
    viewHasPayload t = viewHasPayload s := by
  obtain ⟨-, rfl⟩ | ⟨-, -, rfl⟩ | ⟨-, -, rfl⟩ := aflenOp_next h
  · exact viewHasPayload_congr rfl rfl
  · exact viewHasPayload_congr rfl rfl
  · exact viewHasPayload_congr (advance_hdr ..) (advance_hdrValid ..)

/-- `RESIDUAL` leaves a window without payload in the views (R245). -/
theorem viewHasPayload_of_residual {ev : Event} (h : react p ev s = .next t)
    (hcause : causeOf p s ev = some .residual) : viewHasPayload t = some false := by
  obtain ⟨b, rfl, ⟨hph, hpos, hafc, -⟩ | ⟨hph, hview, -⟩⟩ := causeOf_eq_residual_iff.mp hcause
  · have hstep : hb3Op p b s = .next t := by simpa [react, byteOp, hph, hpos] using h
    rw [viewHasPayload_eq, viewAfc_of_hb3Op hstep, hafc]
    rfl
  · have hstep : aflenOp p b s = .next t := by simpa [react, byteOp, hph] using h
    rw [viewHasPayload_of_aflenOp hstep, hview]

end views

/-! ### The phases inside a window -/

theorem insideWindow_iff (ph : Phase) :
    (ph = .hdr ∨ ph = .aflen ∨ ph = .af ∨ ph = .payload ∨ ph = .skip) ↔ ph ≠ .err ∧ ph ≠ .idle := by
  cases ph <;> decide

/-- While its length byte is awaited, a window has a field (R30). -/
theorem Inv.viewHasAf_of_aflen {p : Params} {s : State} (hinv : Inv p s) (hph : s.phase = .aflen) :
    viewHasAf s = some true := by
  obtain ⟨-, -, hfield⟩ := hinv.aflen hph
  exact hfield

/-- Inside a window at least its first byte has been consumed (R30). -/
theorem Inv.one_le_pos {p : Params} {s : State} (hinv : Inv p s) (hsize : 1 ≤ p.hdrSize) (herr : s.phase ≠ .err)
    (hidle : s.phase ≠ .idle) : 1 ≤ s.pos.toNat := by
  cases hph : s.phase with
  | idle => exact absurd hph hidle
  | hdr => exact (hinv.hdr hph).1
  | aflen => exact (hinv.aflen hph).1 ▸ hsize
  | af =>
    obtain ⟨-, -, r, l, -, -, -, hle, -, hsum, -⟩ := hinv.af hph
    omega
  | payload =>
    obtain ⟨-, -, ⟨-, hstart⟩ | ⟨-, -, l, -, -, hstart⟩⟩ := hinv.payload hph <;>
      (unfold payStart at hstart; omega)
  | skip =>
    obtain ⟨-, -, -, hstart⟩ := hinv.skip hph
    omega
  | err => exact absurd hph herr

end Sys2Proof.Machine

namespace Sys2Proof

open Machine

/-- Settles O40: both sides of the equivalence say that the cause is `SOURCE_IO`. -/
theorem errorKindIsIoExactlyForSourceIo : Obligations.ErrorKindIsIoExactlyForSourceIo := by
  unfold Obligations.ErrorKindIsIoExactlyForSourceIo
  intro s
  have hkind : errKind s = true ↔ causeCode s.errCause = 5 :=
    (errKind_eq_true_iff s).trans (causeCode_eq_five_iff s.errCause).symm
  refine ⟨hkind, fun _ hle => Bool.eq_false_iff.mpr fun hio => ?_⟩
  rw [hkind.mp hio] at hle
  exact absurd hle (by decide)

/-- Settles O35: `BADSYNC` is the one raise of its cause. -/
theorem badSyncRaisedExactlyOnAWrongFirstByte : Obligations.BadSyncRaisedExactlyOnAWrongFirstByte := by
  unfold Obligations.BadSyncRaisedExactlyOnAWrongFirstByte
  intro s t ev _ hout hstep
  rw [exec_event] at hstep
  exact (exists_err_mem_react_iff hout hstep .badSync).trans causeOf_eq_badSync_iff

/-- Settles O36: `EOS` is the one raise of its cause, and inside a window the invariants bound `pos`. -/
theorem truncatedRaisedExactlyByEosInsideAWindow : Obligations.TruncatedRaisedExactlyByEosInsideAWindow := by
  unfold Obligations.TruncatedRaisedExactlyByEosInsideAWindow
  intro s t ev hinv hout hstep
  rw [exec_event] at hstep
  refine ⟨?raised, fun q hq => ?offset⟩
  case raised =>
    rw [exists_err_mem_react_iff hout hstep .truncated, causeOf_eq_truncated_iff, insideWindow_iff]
  case offset =>
    obtain ⟨hcause, rfl⟩ := (err_mem_react_iff hout hstep .truncated q).mp hq
    obtain ⟨-, herr, hidle⟩ := causeOf_eq_truncated_iff.mp hcause
    exact ⟨rfl, hinv.one_le_pos (by decide) herr hidle, Nat.le_of_lt_succ hinv.pos⟩

/-- Settles O37: `AFLEN` is the one raise of its cause, and the invariants give its window a field. -/
theorem afOverrunRaisedExactlyAboveTheBudget : Obligations.AfOverrunRaisedExactlyAboveTheBudget := by
  unfold Obligations.AfOverrunRaisedExactlyAboveTheBudget
  intro s t ev hinv hout hstep
  rw [exec_event] at hstep
  rw [exists_err_mem_react_iff hout hstep .afOverrun, causeOf_eq_afOverrun_iff]
  exact exists_congr fun b => and_congr_right fun _ =>
    ⟨fun ⟨hph, hover⟩ => ⟨hph, hinv.viewHasAf_of_aflen hph, hover⟩, fun ⟨hph, _, hover⟩ => ⟨hph, hover⟩⟩

/-- Settles O39: `SRCERR` is the one raise of its cause. -/
theorem sourceIoRaisedExactlyBySrcerr : Obligations.SourceIoRaisedExactlyBySrcerr := by
  unfold Obligations.SourceIoRaisedExactlyBySrcerr
  intro s t ev _ hout hstep
  rw [exec_event] at hstep
  exact (exists_err_mem_react_iff hout hstep .sourceIo).trans causeOf_eq_sourceIo_iff

/-- Settles O38: `HB3` and `AFLEN` are the two raises of its cause, each in a window whose `afc` shows no payload. -/
theorem residualRaisedExactlyWhenBytesRemain : Obligations.ResidualRaisedExactlyWhenBytesRemain := by
  unfold Obligations.ResidualRaisedExactlyWhenBytesRemain
  intro v s t ev hinv hout hstep
  refine ⟨?raised, fun q hq => ?offset⟩
  case raised =>
    rw [exists_err_mem_react_iff hout hstep .residual, causeOf_eq_residual_iff]
    have hafc (hph : s.phase = .aflen) : viewHasPayload s = some false ↔ viewAfc s = some 0b10 :=
      viewHasPayload_eq_false_iff (hinv.viewHasAf_of_aflen hph)
    exact exists_congr fun b => and_congr_right fun _ => or_congr Iff.rfl <| and_congr_right fun hph =>
      and_congr_left fun _ => hafc hph
  case offset =>
    obtain ⟨hcause, rfl⟩ := (err_mem_react_iff hout hstep .residual q).mp hq
    refine ⟨rfl, fun hph => ?_, fun hph => ?_, viewHasPayload_of_residual hstep hcause⟩
    · obtain ⟨b, -, ⟨-, hpos, -⟩ | ⟨haflen, -⟩⟩ := causeOf_eq_residual_iff.mp hcause
      · exact hpos
      · simp [hph] at haflen
    · exact BitVec.eq_of_toNat_eq (hinv.aflen hph).1

end Sys2Proof

namespace Sys2Proof.Machine

/-! ### The invariants of R30, by the phase -/

section invariants
variable {p : Params} {s t : State}

/-- Items 3 to 8 of R30, of which a state meets the one of its phase. -/
def PhaseItem (p : Params) (s : State) : Prop :=
  match s.phase with
  | .idle => s.pos = 0
  | .hdr => 1 ≤ s.pos.toNat ∧ s.pos.toNat ≤ 3 ∧ s.hdrValid = false ∧ s.hdr.lane0 = some p.syncByte ∧
      (2 ≤ s.pos.toNat → s.hdr.lane1 ≠ none) ∧ (3 ≤ s.pos.toNat → s.hdr.lane2 ≠ none)
  | .aflen => s.pos.toNat = p.hdrSize ∧ s.hdrValid = true ∧ viewHasAf s = some true
  | .af => s.hdrValid = true ∧ viewHasAf s = some true ∧
      ∃ r l : Byte, s.afRem = some r ∧ s.afLen = some l ∧ 1 ≤ r.toNat ∧ r.toNat ≤ l.toNat ∧ l.toNat ≤ p.afLenMax ∧
        s.pos.toNat + r.toNat = p.hdrSize + 1 + l.toNat ∧ (viewHasPayload s = some false → l.toNat = p.afLenMax)
  | .payload => s.hdrValid = true ∧ viewHasPayload s = some true ∧
      ((viewHasAf s = some false ∧ payStart p false 0 ≤ s.pos.toNat) ∨
        (viewHasAf s = some true ∧ s.afRem = some 0 ∧
          ∃ l : Byte, s.afLen = some l ∧ l.toNat < p.afLenMax ∧ payStart p true l.toNat ≤ s.pos.toNat))
  | .skip => p.afc00Residual = false ∧ s.hdrValid = true ∧ viewAfc s = some 0 ∧ p.hdrSize ≤ s.pos.toNat
  | .err => True

/-- Item 9 of R30: a valid header was captured whole, after a sync byte. -/
def HeaderCaptured (p : Params) (s : State) : Prop :=
  s.hdrValid = true → s.hdr.lane0 = some p.syncByte ∧ s.hdr.lane1 ≠ none ∧ s.hdr.lane2 ≠ none ∧ s.hdr.lane3 ≠ none

/-- The nine items are items 1, 2 and 9 and the item of the phase. -/
theorem Inv.of_phaseItem (hpos : s.pos.toNat < p.pktSize) (herr : s.phase = .err ↔ s.errCause ≠ none)
    (hvalid : HeaderCaptured p s) (hitem : PhaseItem p s) : Inv p s where
  pos := hpos
  err := herr
  idle hph := by simpa only [PhaseItem, hph] using hitem
  hdr hph := by simpa only [PhaseItem, hph] using hitem
  aflen hph := by simpa only [PhaseItem, hph] using hitem
  af hph := by simpa only [PhaseItem, hph] using hitem
  payload hph := by simpa only [PhaseItem, hph] using hitem
  skip hph := by simpa only [PhaseItem, hph] using hitem
  valid := hvalid

/-- The invariants speak of the registers only, not of the model's own two fields. -/
theorem Inv.of_registers (hinv : Inv p s) (input : List PortIn) (out : List OutEvent) :
    Inv p { s with input := input, out := out } :=
  ⟨hinv.pos, hinv.err, hinv.idle, hinv.hdr, hinv.aflen, hinv.af, hinv.payload, hinv.skip, hinv.valid⟩

theorem Inv.errCause_eq_none (hinv : Inv p s) (hph : s.phase ≠ .err) : s.errCause = none := by
  simpa [hph] using hinv.err

/-- An error keeps the invariants: item 2 by its cause, and no other item is about `ERR` (R250). -/
theorem inv_raise (c : Cause) (hpos : s.pos.toNat < p.pktSize) (hvalid : HeaderCaptured p s) :
    Inv p (raise c s) :=
  .of_phaseItem hpos (by simp) hvalid trivial

theorem inv_windowStart (hsize : 0 < p.pktSize) (hph : s.phase = .idle) (hpos : s.pos = 0) (herr : s.errCause = none)
    (hvalid : HeaderCaptured p s) : Inv p s :=
  .of_phaseItem (by simpa [hpos] using hsize) (by simp [hph, herr]) hvalid (by simpa only [PhaseItem, hph] using hpos)

theorem pos_succ_toNat (hfits : p.Fits) (hpos : s.pos.toNat + 1 < p.pktSize) :
    (s.pos + 1).toNat = s.pos.toNat + 1 := by
  obtain ⟨-, -, hle⟩ := hfits
  rw [BitVec.toNat_add]
  exact Nat.mod_eq_of_lt (by simp; omega)

/-- The advance law after register writes `s'` of a state that meets the invariants keeps them if, where the window does
not end, the next offset meets the item of the phase (R137). -/
theorem Inv.advance {s' : State} (hfits : p.Fits) (hinv : Inv p s) (hph : s.phase ≠ .err) (hpos : s'.pos = s.pos)
    (hph' : s'.phase ≠ .err) (herr : s'.errCause = s.errCause) (hvalid : HeaderCaptured p s')
    (hitem : s.pos.toNat + 1 < p.pktSize → (s.pos + 1).toNat = s.pos.toNat + 1 → PhaseItem p (setPos (s.pos + 1) s')) :
    Inv p (Machine.advance p s') := by
  have hlt := hinv.pos
  rw [hinv.errCause_eq_none hph] at herr
  obtain ⟨-, h⟩ | ⟨hnotLast, h⟩ := advance_cases p s' <;> rw [h]
  · exact inv_windowStart (by omega) rfl rfl herr hvalid
  · rw [hpos] at hnotLast ⊢
    have hnext : s.pos.toNat + 1 < p.pktSize := by omega
    have hsucc := pos_succ_toNat hfits hnext
    exact .of_phaseItem (hsucc.trans_lt hnext) (by simp [hph', herr]) hvalid (hitem hnext hsucc)

/-! ### The regions a window's header and length leave (R104) -/

theorem payStart_withoutField (len : Nat) : payStart p false len = p.hdrSize := rfl

theorem payStart_withField (len : Nat) : payStart p true len = p.hdrSize + (1 + len) := rfl

/-- The views are defined together. -/
theorem viewHasPayload_of_viewHasAf {hasAf : Bool} (h : viewHasAf s = some hasAf) :
    ∃ hasPayload, viewHasPayload s = some hasPayload := by
  obtain ⟨w, hw, -⟩ := Option.map_eq_some_iff.mp h
  exact ⟨hdrHasPayload w, by rw [viewHasPayload, hw, Option.map_some]⟩

/-! ### Every move keeps the invariants -/

/-- After the common part of `HB3` the view `afc` is that of the header completed, and item 9 holds. -/
theorem headerCaptured_commitHeader (hinv : Inv p s) (hph : s.phase = .hdr) (hpos : s.pos.toNat = 3) (w : HdrWord)
    (r : HdrRecord) : HeaderCaptured p (commitHeader w r s) := by
  obtain ⟨-, -, -, h0, h1, h2⟩ := hinv.hdr hph
  exact fun _ => ⟨h0, h1 (by omega), h2 (by omega), nofun⟩

/-- The completed header meets the item of the phase its class goes on in (R167 to R170). -/
theorem Inv.header (hfits : p.Fits) (hinv : Inv p s) (hph : s.phase = .hdr) (hpos : s.pos.toNat = 3) {w : HdrWord}
    {r : HdrRecord} (hview : viewWord (commitHeader w r s) = some w) :
    Inv p (afterHeader p (hdrAfc w) (commitHeader w r s)) := by
  have ⟨hsize, hlow, _⟩ := hfits
  have hcaptured := headerCaptured_commitHeader hinv hph hpos w r
  generalize hcommit : commitHeader w r s = s' at hview hcaptured ⊢
  have hvalid : s'.hdrValid = true := by rw [← hcommit]; rfl
  have hcontinue (ph : Phase) (hph' : ph ≠ .err)
      (hitem : (s.pos + 1).toNat = 4 → PhaseItem p (setPos (s.pos + 1) (setPhase ph s'))) :
      Inv p (Machine.advance p (setPhase ph s')) :=
    hinv.advance hfits (by simp [hph]) (by rw [← hcommit]; rfl) hph' (by rw [← hcommit]; rfl) hcaptured
      fun _ hsucc => hitem (by rw [hsucc, hpos])
  have hasAf : viewHasAf s' = some ((hdrAfc w).getLsbD 1) := by rw [viewHasAf, hview, Option.map_some, hdrHasAf_afc]
  have hasPayload : viewHasPayload s' = some ((hdrAfc w).getLsbD 0) := by
    rw [viewHasPayload, hview, Option.map_some, hdrHasPayload_afc]
  have hafcView : viewAfc s' = some (hdrAfc w) := by rw [viewAfc, hview, Option.map_some]
  have hafc : ∀ a : BitVec 2, a = 0b01 ∨ a = 0b10 ∨ a = 0b11 ∨ a = 0b00 := by decide
  obtain ⟨hPayload, hField, hBoth, hNeither⟩ := afterHeader_eq p s'
  obtain h | h | h | h := hafc (hdrAfc w) <;> rw [h] at hasAf hasPayload hafcView ⊢
  · rw [hPayload]
    exact hcontinue .payload nofun fun hnext =>
      ⟨hvalid, hasPayload, .inl ⟨hasAf, by rw [payStart_withoutField, hsize]; exact hnext.ge⟩⟩
  · rw [hField]
    exact hcontinue .aflen nofun fun hnext => ⟨hnext.trans hsize.symm, hvalid, hasAf⟩
  · rw [hBoth]
    exact hcontinue .aflen nofun fun hnext => ⟨hnext.trans hsize.symm, hvalid, hasAf⟩
  · rw [hNeither, neitherRegion]
    cases hparam : p.afc00Residual with
    | true => exact inv_raise .residual (by rw [← hcommit]; exact hinv.pos) hcaptured
    | false => exact hcontinue .skip nofun fun hnext => ⟨hparam, hvalid, hafcView, (hsize.trans hnext.symm).le⟩

/-- An accepted length opens the field, or the payload if the field is empty (R194). -/
theorem Inv.lengthAccepted (hfits : p.Fits) (hinv : Inv p s) (hph : s.phase = .aflen) {len : Byte} {hasPayload : Bool}
    (hlen : len.toNat ≤ p.afLenMax) (hview : viewHasPayload s = some hasPayload)
    (htiles : hasPayload = true ∨ len.toNat = p.afLenMax) : Inv p (Machine.lengthAccepted p len s) := by
  obtain ⟨hpos, hvalid, hasAf⟩ := hinv.aflen hph
  have hmax : p.afLenMax = p.pktSize - p.hdrSize - 1 := rfl
  refine hinv.advance hfits (by simp [hph]) rfl (by simp only [setPhase_phase]; split <;> nofun) rfl hinv.valid
    fun hlt hsucc => ?_
  by_cases hzero : len = 0
  · subst hzero
    have hpayload : viewHasPayload s = some true := by
      obtain rfl | hfull := htiles
      · exact hview
      · simp at hfull; omega
    refine ⟨hvalid, hpayload, .inr ⟨hasAf, rfl, 0, rfl, ?_, ?_⟩⟩
    · show 0 < p.afLenMax
      omega
    · rw [payStart_withField]
      exact (by omega : p.hdrSize + (1 + 0) ≤ (s.pos + 1).toNat)
  · have hone : len.toNat ≠ 0 := fun h => hzero (BitVec.eq_of_toNat_eq h)
    rw [if_neg hzero]
    refine ⟨hvalid, hasAf, len, len, rfl, rfl, by omega, le_rfl, hlen, ?_, fun hnone => ?_⟩
    · exact (by omega : (s.pos + 1).toNat + len.toNat = p.hdrSize + 1 + len.toNat)
    · obtain rfl : hasPayload = false := Option.some.inj (hview.symm.trans hnone)
      simpa using htiles

/-- A body byte leaves the rest of the field, or the payload after it (R196). -/
theorem Inv.bodyByte (hfits : p.Fits) (hinv : Inv p s) (hph : s.phase = .af) (b : Byte) {r : Byte}
    (hr : s.afRem = some r) : Inv p (Machine.bodyByte p b r s) := by
  obtain ⟨hvalid, hasAf, r', l, hr', hl, hone, hrl, hlmax, hsum, hfull⟩ := hinv.af hph
  obtain rfl : r = r' := Option.some.inj (hr.symm.trans hr')
  have herr : s.errCause = none := hinv.errCause_eq_none (by simp [hph])
  have hmax : p.afLenMax = p.pktSize - p.hdrSize - 1 := rfl
  have ⟨hsize, hlow, _⟩ := hfits
  have hpred : (r - 1).toNat = r.toNat - 1 := by bv_omega
  obtain hlast | hlt : s.pos.toNat = p.pktSize - 1 ∨ s.pos.toNat + 1 < p.pktSize := by have := hinv.pos; omega
  · rw [bodyByte_last hlast]
    exact inv_windowStart (by omega) rfl rfl herr hinv.valid
  have hsucc : (s.pos + 1).toNat = s.pos.toNat + 1 := pos_succ_toNat hfits hlt
  rw [bodyByte_inside (by omega)]
  by_cases hlastOfField : r = 1
  · rw [if_pos hlastOfField]
    have hone' : r.toNat = 1 := by rw [hlastOfField]; rfl
    have hpayload : viewHasPayload s = some true := by
      obtain ⟨hasPayload, hview⟩ := viewHasPayload_of_viewHasAf hasAf
      cases hasPayload with
      | true => exact hview
      | false => have := hfull hview; omega
    refine .of_phaseItem (hsucc.trans_lt hlt) (by simp [herr]) hinv.valid
      ⟨hvalid, hpayload, .inr ⟨hasAf, by rw [hlastOfField]; rfl, l, hl, by omega, ?_⟩⟩
    rw [payStart_withField]
    exact (by omega : p.hdrSize + (1 + l.toNat) ≤ (s.pos + 1).toNat)
  · rw [if_neg hlastOfField]
    have htwo : r.toNat ≠ 1 := fun h => hlastOfField (BitVec.eq_of_toNat_eq h)
    refine .of_phaseItem (hsucc.trans_lt hlt) (by simp [hph, herr]) hinv.valid ?_
    simp only [PhaseItem, setPos_phase, setPhase_phase, hph]
    exact ⟨hvalid, hasAf, r - 1, l, rfl, hl, by omega, by omega, hlmax,
      (by omega : (s.pos + 1).toNat + (r - 1).toNat = p.hdrSize + 1 + l.toNat), hfull⟩

/-- Every move keeps the nine items (R30). -/
theorem Inv.move (hfits : p.Fits) (hinv : Inv p s) (hmove : Move p s t) : Inv p t := by
  have ⟨hsize, hlow, _⟩ := hfits
  cases hmove with
  | stay => exact hinv
  | sourceIo _ => exact inv_raise .sourceIo hinv.pos hinv.valid
  | cleanEos _ => exact hinv.of_registers _ _
  | truncated _ _ => exact inv_raise .truncated hinv.pos hinv.valid
  | sync hph hpos =>
    refine hinv.advance hfits (by simp [hph]) rfl nofun rfl nofun fun _ hsucc => ?_
    have hnext : (s.pos + 1).toNat = 1 := by omega
    exact ⟨hnext.ge, hnext.trans_le (by decide), rfl, rfl, fun h => absurd (h.trans hnext.le) (by decide),
      fun h => absurd (h.trans hnext.le) (by decide)⟩
  | badSync b _ _ _ => exact inv_raise .badSync hinv.pos nofun
  | byteOne b hph hpos =>
    obtain ⟨-, -, hvalid, h0, -, -⟩ := hinv.hdr hph
    refine hinv.advance hfits (by simp [hph]) rfl (by simp [hph]) rfl (by simp [HeaderCaptured, hvalid])
      fun _ hsucc => ?_
    have hnext : (s.pos + 1).toNat = 2 := by omega
    simp only [PhaseItem, setPos_phase, setLane1_phase, hph, setPos_pos, hnext]
    exact ⟨by decide, by decide, hvalid, h0, nofun, nofun⟩
  | byteTwo b hph hpos =>
    obtain ⟨-, -, hvalid, h0, h1, -⟩ := hinv.hdr hph
    refine hinv.advance hfits (by simp [hph]) rfl (by simp [hph]) rfl (by simp [HeaderCaptured, hvalid])
      fun _ hsucc => ?_
    have hnext : (s.pos + 1).toNat = 3 := by omega
    simp only [PhaseItem, setPos_phase, setLane2_phase, hph, setPos_pos, hnext]
    exact ⟨by decide, by decide, hvalid, h0, fun _ => h1 (by omega), nofun⟩
  | header w hph hpos h0 h1 h2 => exact hinv.header hfits hph hpos (viewWord_commitHeader _ h0 h1 h2)
  | overrun len _ _ _ => exact inv_raise .afOverrun hinv.pos hinv.valid
  | residual len _ _ _ _ => exact inv_raise .residual hinv.pos hinv.valid
  | accepted len hasPayload hph _ hlen hview htiles => exact hinv.lengthAccepted hfits hph hlen hview htiles
  | body b r hph _ _ hr _ _ => exact hinv.bodyByte hfits hph b hr
  | pay b hph _ _ =>
    refine hinv.advance hfits (by simp [hph]) rfl (by simp [hph]) rfl hinv.valid fun _ hsucc => ?_
    obtain ⟨hvalid, hpayload, hstart⟩ := hinv.payload hph
    simp only [PhaseItem, setPos_phase, emit_phase, hph, setPos_pos, hsucc]
    exact ⟨hvalid, hpayload, hstart.imp (fun ⟨haf, h⟩ => ⟨haf, h.trans (Nat.le_succ _)⟩)
      fun ⟨haf, hrem, l, hl, hlmax, h⟩ => ⟨haf, hrem, l, hl, hlmax, h.trans (Nat.le_succ _)⟩⟩
  | skip hph hlow _ =>
    refine hinv.advance hfits (by simp [hph]) rfl (by simp [hph]) rfl hinv.valid fun _ hsucc => ?_
    obtain ⟨hparam, hvalid, hafc, -⟩ := hinv.skip hph
    simp only [PhaseItem, setPos_phase, hph, setPos_pos, hsucc]
    exact ⟨hparam, hvalid, hafc, hlow.trans (Nat.le_succ _)⟩

/-- Every event keeps the nine items: the two commands by the start they lead to, any other by its move. -/
theorem Inv.react {ev : Event} (hfits : p.Fits) (hinv : Inv p s) (h : react p ev s = .next t) : Inv p t := by
  have hsize : 0 < p.pktSize := (Nat.zero_lt_succ 3).trans hfits.2.1
  obtain ⟨-, rfl⟩ | ⟨-, rfl⟩ | ⟨-, -, hmove⟩ := react_move h
  · exact inv_windowStart hsize rfl rfl rfl nofun
  · exact inv_windowStart hsize rfl rfl rfl nofun
  · exact hinv.move hfits hmove

theorem paramsWith_fits (v : Bool) : (Config.paramsWith v).Fits := by cases v <;> decide

/-- A step is the event-level step function on the sample taken (R130). -/
theorem step_eq_react (s : State) : step s = Machine.react Config.params (nextEvent s) (fetched s) :=
  exec_event _ _

end invariants

end Sys2Proof.Machine

namespace Sys2Proof

open Machine

/-- Settles O47: the reset state is a window start without a valid header. -/
theorem resetMeetsTheInvariants : Obligations.ResetMeetsTheInvariants := by
  unfold Obligations.ResetMeetsTheInvariants
  exact fun v => inv_windowStart (Nat.zero_lt_succ 187) rfl rfl rfl nofun

/-- Settles O49: an event is one of the two commands or a move, and each keeps the nine items. -/
theorem everyEventKeepsTheInvariantsForEitherParameter :
    Obligations.EveryEventKeepsTheInvariantsForEitherParameter := by
  unfold Obligations.EveryEventKeepsTheInvariantsForEitherParameter
  exact fun v ev s t hinv h => hinv.react (paramsWith_fits v) h

/-- Settles O48: a step is an event on the state whose sample is taken, whose registers are the same. -/
theorem everyStepKeepsTheInvariants : Obligations.EveryStepKeepsTheInvariants := by
  unfold Obligations.EveryStepKeepsTheInvariants
  intro s t hinv h
  rw [step_eq_react] at h
  exact (hinv.of_registers s.input.tail []).react (paramsWith_fits true) h

end Sys2Proof

namespace Sys2Proof.Machine

/-! ### What each byte operation answers in its context -/

section contexts
variable {p : Params} {s : State} {b len : Byte}

@[simp] theorem paramsWith_pktSize (v : Bool) : (Config.paramsWith v).pktSize = 188 := rfl
@[simp] theorem paramsWith_hdrSize (v : Bool) : (Config.paramsWith v).hdrSize = 4 := rfl
@[simp] theorem paramsWith_syncByte (v : Bool) : (Config.paramsWith v).syncByte = 0x47 := rfl
@[simp] theorem paramsWith_afLenMax (v : Bool) : (Config.paramsWith v).afLenMax = 183 := rfl
@[simp] theorem paramsWith_afc00Residual (v : Bool) : (Config.paramsWith v).afc00Residual = v := rfl

/-- Before the end of the window the advance law moves `pos` on (R137). -/
theorem advance_of_pos {n : Byte} (hpos : s.pos = n) (hlt : n.toNat + 1 < p.pktSize) :
    advance p s = setPos (n + 1) s := by
  subst hpos
  exact advance_inside (by omega)

theorem badSyncOp_of_windowStart (hph : s.phase = .idle) (hpos : s.pos = 0) :
    badSyncOp b s = .next (raise .badSync (dropHeader (setLane0 b s))) :=
  inContext_of (atOffset_iff.mpr ⟨hph, by rw [hpos]; rfl⟩) _

theorem hb1Op_of_context (hsize : 2 < p.pktSize) (hph : s.phase = .hdr) (hpos : s.pos = 1) :
    hb1Op p b s = .next (setPos 2 (setLane1 b s)) := by
  have hcontext : atOffset .hdr 1 s = true := atOffset_iff.mpr ⟨hph, by rw [hpos]; rfl⟩
  rw [hb1Op, inContext_of hcontext, advance_of_pos (s := setLane1 b s) hpos hsize]
  rfl

theorem hb2Op_of_context (hsize : 3 < p.pktSize) (hph : s.phase = .hdr) (hpos : s.pos = 2) :
    hb2Op p b s = .next (setPos 3 (setLane2 b s)) := by
  have hcontext : atOffset .hdr 2 s = true := atOffset_iff.mpr ⟨hph, by rw [hpos]; rfl⟩
  rw [hb2Op, inContext_of hcontext, advance_of_pos (s := setLane2 b s) hpos hsize]
  rfl

/-- With lanes 0 to 2 captured, `HB3` commits the word and goes on by its class (R164). -/
theorem hb3Op_of_lanes (hph : s.phase = .hdr) (hpos : s.pos = 3) {b0 b1 b2 : Byte} (h0 : s.hdr.lane0 = some b0)
    (h1 : s.hdr.lane1 = some b1) (h2 : s.hdr.lane2 = some b2) :
    hb3Op p b s = .next (afterHeader p (b.extractLsb' 4 2)
      (commitHeader (joinBytes b0 b1 b2 b) (record p (joinBytes b0 b1 b2 b)) s)) := by
  have hcontext : atOffset .hdr 3 s = true := atOffset_iff.mpr ⟨hph, by rw [hpos]; rfl⟩
  have hafc : hdrAfc (joinBytes b0 b1 b2 b) = b.extractLsb' 4 2 := by rw [hdrAfc_eq_hdrByte3, hdrByte_join3]
  rw [hb3Op, inContext_of hcontext, h0, h1, h2, ← hafc]
  rfl

/-- A header class with a region goes on at offset 4 in the phase of the region (R167 to R169). -/
theorem afterHeader_of_region (hsize : 4 < p.pktSize) (hpos : s.pos = 3) :
    afterHeader p 0b01 s = setPos 4 (setPhase .payload s) ∧ afterHeader p 0b10 s = setPos 4 (setPhase .aflen s) ∧
      afterHeader p 0b11 s = setPos 4 (setPhase .aflen s) := by
  have hadvance (ph : Phase) : advance p (setPhase ph s) = setPos 4 (setPhase ph s) :=
    advance_of_pos (s := setPhase ph s) hpos hsize
  exact ⟨hadvance .payload, hadvance .aflen, hadvance .aflen⟩

/-- A header with neither region is an error or goes on at offset 4 in `SKIP` (R170). -/
theorem afterHeader_of_neither (hsize : 4 < p.pktSize) (hpos : s.pos = 3) :
    afterHeader p 0b00 s = if p.afc00Residual then raise .residual s else setPos 4 (setPhase .skip s) := by
  have hadvance : advance p (setPhase .skip s) = setPos 4 (setPhase .skip s) :=
    advance_of_pos (s := setPhase .skip s) hpos hsize
  rw [(afterHeader_eq p s).2.2.2, neitherRegion, hadvance]

/-- A length above the bound overruns, whatever the header shows (R191, R192). -/
theorem aflenOp_overrun (hcontext : atLengthByte p s = true) (hlen : p.afLenMax < len.toNat) :
    aflenOp p len s = .next (lengthOverrun len s) := by
  rw [aflenOp, inContext_of hcontext, if_pos hlen]

/-- A short field without a payload leaves bytes (R193). -/
theorem aflenOp_residual (hcontext : atLengthByte p s = true) (hlen : len.toNat < p.afLenMax)
    (hview : viewHasPayload s = some false) : aflenOp p len s = .next (lengthResidual len s) := by
  rw [aflenOp, inContext_of hcontext, if_neg hlen.not_gt, hview, withValue_some, if_pos ⟨rfl, hlen⟩]

/-- Any other length is accepted (R194). -/
theorem aflenOp_accepted (hcontext : atLengthByte p s = true) (hlen : len.toNat ≤ p.afLenMax) {hasPayload : Bool}
    (hview : viewHasPayload s = some hasPayload) (htiles : hasPayload = true ∨ len.toNat = p.afLenMax) :
    aflenOp p len s = .next (lengthAccepted p len s) := by
  have hnotShort : ¬(hasPayload = false ∧ len.toNat < p.afLenMax) := by
    rintro ⟨rfl, hlt⟩
    exact hlt.ne (htiles.resolve_left nofun)
  rw [aflenOp, inContext_of hcontext, if_neg hlen.not_gt, hview, withValue_some, if_neg hnotShort]

theorem atLengthByte_of_pos (v : Bool) (hph : s.phase = .aflen) (hpos : s.pos = 4) :
    atLengthByte (Config.paramsWith v) s = true := atOffset_iff.mpr ⟨hph, by rw [hpos]; rfl⟩

theorem lengthAccepted_of_pos (hsize : 5 < p.pktSize) (hpos : s.pos = 4) :
    lengthAccepted p len s =
      setPos 5 (setPhase (if len = 0 then .payload else .af) (emit (.afLen len) (setAfRem len (setAfLen len s)))) := by
  rw [lengthAccepted]
  exact advance_of_pos (n := 4) hpos hsize

theorem skipbyteOp_of_context (hregion : inRegion p .skip p.hdrSize s = true) :
    skipbyteOp p b s = .next (advance p s) := inContext_of hregion _

end contexts

/-! ### `BYTE` by its phase (R135) -/

section byPhase
variable {p : Params} {s : State} {b : Byte}

theorem byteOp_idle (hph : s.phase = .idle) :
    byteOp p b s = if b = p.syncByte then syncOp p s else badSyncOp b s := by rw [byteOp, hph]
theorem byteOp_hb1 (hph : s.phase = .hdr) (hpos : s.pos = 1) : byteOp p b s = hb1Op p b s := by
  simp [byteOp, hph, hpos]
theorem byteOp_hb2 (hph : s.phase = .hdr) (hpos : s.pos = 2) : byteOp p b s = hb2Op p b s := by
  simp [byteOp, hph, hpos]
theorem byteOp_hb3 (hph : s.phase = .hdr) (hpos : s.pos = 3) : byteOp p b s = hb3Op p b s := by
  simp [byteOp, hph, hpos]
theorem byteOp_aflen (hph : s.phase = .aflen) : byteOp p b s = aflenOp p b s := by rw [byteOp, hph]
theorem byteOp_af (hph : s.phase = .af) : byteOp p b s = afbyteOp p b s := by rw [byteOp, hph]
theorem byteOp_payload (hph : s.phase = .payload) : byteOp p b s = paybyteOp p b s := by rw [byteOp, hph]
theorem byteOp_skip (hph : s.phase = .skip) : byteOp p b s = skipbyteOp p b s := by rw [byteOp, hph]
theorem byteOp_err (hph : s.phase = .err) : byteOp p b s = .next s := by rw [byteOp, hph, nopOp]

end byPhase

/-! ### `EOS` by its phase (R134) -/

section eos
variable {s : State}

theorem eosOp_of_idle (hph : s.phase = .idle) : eosOp s = emit .eos s := by simp [eosOp, hph]

theorem eosOp_inside (hidle : s.phase ≠ .idle) (herr : s.phase ≠ .err) : eosOp s = raise .truncated s := by
  rw [eosOp, if_neg herr, if_neg hidle]

end eos

/-! ### The rows that name `HB3`'s step (log 5) -/

section headerRows
variable {p : Params} {s : State} {w : HdrWord}

/-- In the step that completes a header, `HB3` commits that header (R164). -/
theorem hb3Op_of_completes (h : completes w s = true) :
    hb3Op p (hdrByte w 3) s = .next (afterHeader p (hdrAfc w) (commitHeader w (record p w) s)) := by
  obtain ⟨hph, hpos, h0, h1, h2⟩ := completes_iff.mp h
  rw [hb3Op_of_lanes hph (BitVec.eq_of_toNat_eq hpos) h0 h1 h2, join_hdrByte, ← hdrAfc_eq_hdrByte3]

/-- A header class row is `HB3` where its continuation is the one of the header's class (R166). -/
theorem classStep_eq_hb3Op (h : completes w s = true) {k : State → State}
    (hk : ∀ s', k s' = afterHeader p (hdrAfc w) s') : classStep p w k s = hb3Op p (hdrByte w 3) s := by
  rw [hb3Op_of_completes h, classStep, headerStep, inContext_of h, hk]

/-- A PID class row is `HB3` where it writes the class of the header's PID (R171 to R173). -/
theorem pidStep_eq_hb3Op (h : completes w s = true) {c : PidClass} (hc : c = pidClass p (hdrPid w)) :
    pidStep p w c s = hb3Op p (hdrByte w 3) s := by
  rw [hb3Op_of_completes h, pidStep, headerStep, inContext_of h, hc]
  rfl

/-- The record of a packed header is its fields, the bits of `afc` and the class of the PID (R165, S8). -/
theorem record_pack (p : Params) (sync : Byte) (tei pusi prio : Bit) (pid : Pid) (tsc afc : BitVec 2) (cc : BitVec 4) :
    record p (packHeader sync tei pusi prio pid tsc afc cc) =
      { tei := tei, pusi := pusi, prio := prio, pid := pid, tsc := tsc, afc := afc, cc := cc,
        hasAf := afc.getLsbD 1, hasPayload := afc.getLsbD 0, pidClass := pidClass p pid } := by
  rw [record, recordAs, hdrHasAf_afc, hdrHasPayload_afc, hdrTei_pack, hdrPusi_pack, hdrPrio_pack, hdrPid_pack,
    hdrTsc_pack, hdrAfc_pack, hdrCc_pack]

/-- What the step that completes a packed header commits, and the class it goes on by. -/
theorem hb3Op_of_completes_pack {sync : Byte} {tei pusi prio : Bit} {pid : Pid} {tsc afc : BitVec 2} {cc : BitVec 4}
    (h : completes (packHeader sync tei pusi prio pid tsc afc cc) s = true) :
    hb3Op p (packByte3 tsc afc cc) s = .next (afterHeader p afc
      (emit (.hdr { tei := tei, pusi := pusi, prio := prio, pid := pid, tsc := tsc, afc := afc, cc := cc,
                    hasAf := afc.getLsbD 1, hasPayload := afc.getLsbD 0, pidClass := pidClass p pid })
        (validateHeader (setLane3 (packByte3 tsc afc cc) s)))) := by
  have hstep := hb3Op_of_completes (p := p) h
  rwa [hdrByte3_pack, hdrAfc_pack, record_pack, commitHeader, hdrByte3_pack] at hstep

end headerRows

end Sys2Proof.Machine

namespace Sys2Proof

open Machine

/-- Settles O13: the meaning of `RESET` is the writes of its rule, whatever the state. -/
theorem resetGivesTheResetRegisters : Obligations.ResetGivesTheResetRegisters := fun _ => rfl

/-- Settles O14: the meaning of `CLEAR` is the return to `IDLE`, whatever the state. -/
theorem clearReturnsToIdle : Obligations.ClearReturnsToIdle := fun _ => rfl

/-- Settles O16: the three cases of `EOS` by the phase, of which `ERR` is not asked. -/
theorem eosIsCleanOrTruncates : Obligations.EosIsCleanOrTruncates := by
  unfold Obligations.EosIsCleanOrTruncates
  refine ⟨fun s hidle => ?_, fun s hidle herr => ?_⟩
  · exact congrArg Host.Outcome.next (eosOp_of_idle hidle)
  · exact congrArg Host.Outcome.next (eosOp_inside hidle herr)

/-- Settles O21: in its context the row is the raise at offset 0. -/
theorem badsyncRaisesAtOffsetZero : Obligations.BadsyncRaisesAtOffsetZero := by
  unfold Obligations.BadsyncRaisesAtOffsetZero
  intro s b hph hpos hb
  have hoperand : (b != Config.params.syncByte) = true := bne_iff_ne.mpr hb
  have hstep : exec (.badsync b) s = .next (raise .badSync (dropHeader (setLane0 b s))) :=
    (operandOk_of hoperand _).trans (badSyncOp_of_windowStart hph hpos)
  rw [hstep, ← hpos]
  rfl

/-- Settles O27: with the parameter false, the continuation of `afc = 00` is `SKIP` at offset 4. -/
theorem afcNeitherSkipsWhenParameterFalse : Obligations.AfcNeitherSkipsWhenParameterFalse := by
  unfold Obligations.AfcNeitherSkipsWhenParameterFalse
  intro s b0 b1 b2 b3 hph hpos h0 h1 h2 hafc
  rw [react, byteOp_hb3 hph hpos, hb3Op_of_lanes hph hpos h0 h1 h2, hafc,
    afterHeader_of_neither (s := commitHeader _ _ s) (by decide) hpos, if_neg (by decide)]
  simp [commitHeader, setPos, setPhase, emit, validateHeader, setHdrValid, setLane3, hdrByte_join3, h0, h1, h2]

/-- Settles O25: each class row is `HB3` on the header it packs, whose class goes on at offset 4. -/
theorem headerClassesGoToTheirRegion : Obligations.HeaderClassesGoToTheirRegion := by
  unfold Obligations.HeaderClassesGoToTheirRegion
  intro s tei pusi prio pid tsc cc
  refine ⟨fun h => ?_, fun h => ?_, fun h => ?_⟩
  all_goals
    have hpos : s.pos = 3 := BitVec.eq_of_toNat_eq (completes_iff.mp h).2.1
    have hrow := classStep_eq_hb3Op (p := Config.params) h fun s' => by rw [hdrAfc_pack]
    rw [hdrByte3_pack, hb3Op_of_completes_pack h] at hrow
    refine hrow.trans (congrArg Host.Outcome.next ?_)
  · exact (afterHeader_of_region (by decide) (by exact hpos)).1
  · exact (afterHeader_of_region (by decide) (by exact hpos)).2.1
  · exact (afterHeader_of_region (by decide) (by exact hpos)).2.2

/-- Settles O26: the class row is `HB3` on the header it packs, and the hardware's parameter makes it the raise. -/
theorem afcNeitherRaisesResidual : Obligations.AfcNeitherRaisesResidual := by
  unfold Obligations.AfcNeitherRaisesResidual
  intro s tei pusi prio pid tsc cc h
  have hpos : s.pos = 3 := BitVec.eq_of_toNat_eq (completes_iff.mp h).2.1
  have hrow := classStep_eq_hb3Op (p := Config.params) h fun s' => by rw [hdrAfc_pack]
  rw [hdrByte3_pack, hb3Op_of_completes_pack h] at hrow
  refine hrow.trans (congrArg Host.Outcome.next ?_)
  refine (afterHeader_of_neither (by decide) (by exact hpos)).trans ?_
  simp [raise, Config.params, hpos, setPhase, setErrCause, emit, validateHeader, setHdrValid, setLane3]

end Sys2Proof

namespace Sys2Proof

/-- The bits of an append, as a sum. -/
theorem toNat_append_eq_add {m n : Nat} (x : BitVec m) (y : BitVec n) :
    (x ++ y).toNat = x.toNat * 2 ^ n + y.toNat := by
  rw [BitVec.toNat_append, ← Nat.shiftLeft_add_eq_or_of_lt y.isLt, Nat.shiftLeft_eq]

/-- Window byte 1 as a number (R95). -/
theorem packByte1_toNat (tei pusi prio : Bit) (pidHi : BitVec 5) :
    (packByte1 tei pusi prio pidHi).toNat = tei.toNat * 128 + pusi.toNat * 64 + prio.toNat * 32 + pidHi.toNat := by
  rw [packByte1, toNat_append_eq_add, toNat_append_eq_add, toNat_append_eq_add]
  omega

/-- Window byte 3 as a number (R95). -/
theorem packByte3_toNat (tsc afc : BitVec 2) (cc : BitVec 4) :
    (packByte3 tsc afc cc).toNat = tsc.toNat * 64 + afc.toNat * 16 + cc.toNat := by
  rw [packByte3, toNat_append_eq_add, toNat_append_eq_add]
  omega

end Sys2Proof

namespace Sys2Proof.Machine

/-! ### What the header classes and the length byte leave -/

section frames
variable {p : Params} {s : State}

theorem afterHeader_frame (p : Params) (afc : BitVec 2) (s : State) :
    (afterHeader p afc s).afLen = s.afLen ∧ (afterHeader p afc s).afRem = s.afRem ∧
      (afterHeader p afc s).input = s.input := by
  obtain ⟨ph, h⟩ | h := afterHeader_cases p afc s <;> simp [h]

/-- The four classes of a header (R98). -/
theorem afc_cases : ∀ a : BitVec 2, a = 0b00 ∨ a = 0b01 ∨ a = 0b10 ∨ a = 0b11 := by decide

/-- At offset 3 a header class emits nothing but the error of `afc = 00` (R167 to R170). -/
theorem afterHeader_out (v : Bool) (afc : BitVec 2) (hpos : s.pos = 3) :
    (afterHeader (Config.paramsWith v) afc s).out =
      s.out ++ if afc = 0b00 ∧ v = true then [.err .residual 3] else [] := by
  obtain ⟨hPayload, hField, hBoth⟩ := afterHeader_of_region (p := Config.paramsWith v) (by simp) hpos
  have hNeither := afterHeader_of_neither (p := Config.paramsWith v) (by simp) hpos
  obtain rfl | rfl | rfl | rfl := afc_cases afc
  · rw [hNeither]
    cases v <;> simp [hpos]
  · rw [hPayload]
    simp
  · rw [hField]
    simp
  · rw [hBoth]
    simp

/-- A length is accepted iff the window tiles (R70, R191). -/
theorem tiles_iff (v hasPayload : Bool) (len : Nat) :
    tiles (Config.paramsWith v) true hasPayload len = true ↔ len ≤ 183 ∧ (hasPayload = true ∨ len = 183) := by
  have hstart : payStart (Config.paramsWith v) true len = 4 + (1 + len) := rfl
  cases hasPayload with
  | true =>
    rw [tiles, hstart, if_pos rfl, decide_eq_true_eq, paramsWith_pktSize]
    simp only [true_or, and_true]
    omega
  | false =>
    rw [tiles, hstart, if_neg nofun, decide_eq_true_eq, paramsWith_pktSize]
    simp only [Bool.false_eq_true, false_or]
    omega

/-- In a window that tiles, the payload is what the header and the field leave (R70, R104). -/
theorem payStart_add_payLen_of_tiles {hasAf hasPayload : Bool} {len : Nat} (h : tiles p hasAf hasPayload len = true) :
    payStart p hasAf len + payLen p hasAf hasPayload len = p.pktSize := by
  cases hasPayload with
  | true => exact Nat.add_sub_cancel' (of_decide_eq_true h)
  | false => exact of_decide_eq_true h

end frames

end Sys2Proof.Machine

namespace Sys2Proof

open Machine

/-- Settles O7: the fields, the bits of `afc` and the class of the PID, read back from the packing. -/
theorem recordInvertsTheHeaderPacking : Obligations.RecordInvertsTheHeaderPacking :=
  fun sync tei pusi prio pid tsc afc cc => record_pack Config.params sync tei pusi prio pid tsc afc cc

/-- Settles O18: each context's operation is the one `BYTE` runs there, on the byte packed back from its fields. -/
theorem byteRunsTheOperationOfItsContext : Obligations.ByteRunsTheOperationOfItsContext := by
  unfold Obligations.ByteRunsTheOperationOfItsContext
  intro s b
  refine ⟨fun hph _ => ?idle, fun hph hpos => ?hb1, fun hph hpos => byteOp_hb2 hph hpos, fun hph hpos => ?hb3,
    fun hph _ => byteOp_aflen hph, fun hph _ _ => byteOp_af hph, fun hph _ _ => byteOp_payload hph,
    fun hph _ _ => byteOp_skip hph, fun hph => byteOp_err hph⟩
  case idle =>
    refine (byteOp_idle hph).trans ?_
    by_cases hb : b = 0x47
    · rw [if_pos hb]
      exact if_pos hb
    · rw [if_neg hb]
      exact (if_neg hb).trans (operandOk_of (bne_iff_ne.mpr hb) _).symm
  case hb1 => exact (byteOp_hb1 hph hpos).trans (congrArg (hb1Op Config.params · s) (pack_byte1 b).symm)
  case hb3 => exact (byteOp_hb3 hph hpos).trans (congrArg (hb3Op Config.params · s) (pack_byte3 b).symm)

/-- Settles O22: in their contexts the two rows capture their byte and move on. -/
theorem headerBytesOneAndTwoAreCaptured : Obligations.HeaderBytesOneAndTwoAreCaptured := by
  unfold Obligations.HeaderBytesOneAndTwoAreCaptured
  refine ⟨fun s tei pusi prio pidHi hph hpos => ?_, fun s pidLo hph hpos => ?_⟩
  · exact ⟨packByte1 tei pusi prio pidHi, hb1Op_of_context (p := Config.params) (by decide) hph hpos,
      packByte1_toNat tei pusi prio pidHi⟩
  · exact hb2Op_of_context (p := Config.params) (by decide) hph hpos

/-- Settles O23: `HB3` commits the joined word and goes on by the class of its byte. -/
theorem hbThreeCompletesTheHeader : Obligations.HbThreeCompletesTheHeader := by
  unfold Obligations.HbThreeCompletesTheHeader
  intro s b0 b1 b2 tsc afc cc hph hpos h0 h1 h2
  have hstep := hb3Op_of_lanes (p := Config.params) (b := packByte3 tsc afc cc) hph hpos h0 h1 h2
  rw [(byte3_fields tsc afc cc).2.1] at hstep
  set s' := commitHeader _ _ s
  have hpos' : s'.pos = 3 := hpos
  obtain ⟨hhdr, hvalid, -⟩ := afterHeader_keeps Config.params afc s'
  obtain ⟨hafLen, hafRem, hinput⟩ := afterHeader_frame Config.params afc s'
  refine ⟨_, packByte3 tsc afc cc, if afc = 0b00 then [.err .residual 3] else [], hstep, packByte3_toNat tsc afc cc,
    ?lanes, hvalid, ?out, hafLen, hafRem, hinput, ?payload, ?field, ?neither⟩
  case lanes => rw [hhdr]; simp [s', commitHeader, h0, h1, h2, hdrByte_join3]
  case out =>
    refine (afterHeader_out true afc hpos').trans ?_
    simp [s']
  case payload =>
    rintro rfl
    rw [(afterHeader_of_region (by decide) hpos').1]
    exact ⟨rfl, rfl, rfl, rfl⟩
  case field =>
    rintro (rfl | rfl)
    · rw [(afterHeader_of_region (by decide) hpos').2.1]
      exact ⟨rfl, rfl, rfl, rfl⟩
    · rw [(afterHeader_of_region (by decide) hpos').2.2]
      exact ⟨rfl, rfl, rfl, rfl⟩
  case neither =>
    rintro rfl
    rw [afterHeader_of_neither (by decide) hpos']
    exact ⟨rfl, hpos, rfl, rfl⟩

/-- Settles O28: each PID row is `HB3` on the header it packs, whose record carries the class of the PID. -/
theorem pidClassRowsReportTheirClass : Obligations.PidClassRowsReportTheirClass := by
  unfold Obligations.PidClassRowsReportTheirClass
  intro s sync tei pusi prio pid tsc afc cc h
  have hpos : s.pos = 3 := BitVec.eq_of_toNat_eq (completes_iff.mp h).2.1
  have hstep := hb3Op_of_completes_pack (p := Config.params) h
  have hrow {c : PidClass} (hc : c = pidClass Config.params pid) :
      pidStep Config.params (packHeader sync tei pusi prio pid tsc afc cc) c s =
        hb3Op Config.params (packByte3 tsc afc cc) s := by
    rw [pidStep_eq_hb3Op h (hc.trans (by rw [hdrPid_pack])), hdrByte3_pack]
  refine ⟨_, if afc = 0b00 then [.err .residual 3] else [], pidClass Config.params pid, hstep, ?out, ?pat, ?stuff, ?raw⟩
  case out =>
    refine (afterHeader_out true afc (by exact hpos)).trans ?_
    simp
  case pat =>
    rintro rfl
    exact ⟨(hrow rfl).trans hstep, rfl, rfl⟩
  case stuff =>
    rintro rfl
    exact ⟨(hrow rfl).trans hstep, rfl, rfl⟩
  case raw =>
    intro hpat hnull
    have hclass : pidClass Config.params pid = .raw := (if_neg hpat).trans (if_neg hnull)
    have hoperand : (pid != Config.params.pidPat && pid != Config.params.pidNull) = true :=
      Bool.and_eq_true_iff.mpr ⟨bne_iff_ne.mpr hpat, bne_iff_ne.mpr hnull⟩
    refine ⟨(operandOk_of hoperand _).trans ((hrow hclass.symm).trans hstep), hclass, by rw [hclass]; rfl⟩

/-- Settles O29: the two rejecting rows are the branches of `AFLEN` they name. -/
theorem aflenRejectsBadLengths : Obligations.AflenRejectsBadLengths := by
  unfold Obligations.AflenRejectsBadLengths
  intro s len hph hpos
  have hcontext := atLengthByte_of_pos true hph hpos
  refine ⟨fun hlen => ?_, fun hview hlen => ?_⟩
  · have hrow : exec (.aflenOverrun len) s = .next (lengthOverrun len s) :=
      (operandOk_of (decide_eq_true hlen) _).trans (inContext_of hcontext _)
    refine ⟨hrow.trans ?_, (aflenOp_overrun hcontext hlen).trans hrow.symm⟩
    rw [← hpos]
    rfl
  · have hrow : exec (.aflenResidual len) s = .next (lengthResidual len s) := by
      refine (operandOk_of (decide_eq_true hlen) _).trans ((inContext_of hcontext _).trans ?_)
      rw [hview]
      rfl
    refine ⟨hrow.trans ?_, (aflenOp_residual hcontext hlen hview).trans hrow.symm⟩
    rw [← hpos]
    rfl

/-- Settles O30: the accepting row is the last branch of `AFLEN`, which goes on at offset 5. -/
theorem aflenOkAccepts : Obligations.AflenOkAccepts := by
  unfold Obligations.AflenOkAccepts
  intro s len hp hph hpos hview hlen htiles
  have hcontext := atLengthByte_of_pos true hph hpos
  have hrow : exec (.aflenOk len) s = .next (lengthAccepted Config.params len s) := by
    refine (operandOk_of (decide_eq_true hlen) _).trans ((inContext_of hcontext _).trans ?_)
    rw [hview, withValue_some, inContext_of]
    exact Bool.or_eq_true_iff.mpr (htiles.imp_right beq_iff_eq.mpr)
  refine ⟨?_, (aflenOp_accepted hcontext hlen hview htiles).trans hrow.symm⟩
  rw [hrow, lengthAccepted_of_pos (by decide) hpos]
  rfl

/-- Settles O31: the length is accepted where the window tiles; in the other cases it overruns or leaves bytes. -/
theorem aflenAcceptsIffTheWindowTiles : Obligations.AflenAcceptsIffTheWindowTiles := by
  unfold Obligations.AflenAcceptsIffTheWindowTiles
  intro s len hp hph hpos hview
  have hcontext := atLengthByte_of_pos true hph hpos
  have htiles : tiles Config.params true hp len.toNat = true ↔ len.toNat ≤ 183 ∧ (hp = true ∨ len.toNat = 183) :=
    tiles_iff true hp len.toNat
  by_cases hover : 183 < len.toNat
  · refine ⟨_, aflenOp_overrun hcontext hover, rfl, ?_, fun h => absurd rfl h⟩
    exact ⟨fun h => absurd rfl h, fun h => absurd (htiles.mp h).1 hover.not_ge⟩
  by_cases hfits : hp = true ∨ len.toNat = 183
  · have hlen : len.toNat ≤ 183 := Nat.le_of_not_lt hover
    refine ⟨_, aflenOp_accepted hcontext hlen hview hfits, ?_, ?_, ?_⟩
    · exact advance_afLen ..
    · rw [lengthAccepted_of_pos (by decide) hpos, htiles]
      exact ⟨fun _ => ⟨hlen, hfits⟩, fun _ => by simp only [setPos_phase, setPhase_phase]; split <;> nofun⟩
    · exact fun _ => ⟨by rw [payStart_withField]; exact (by omega : 4 + (1 + len.toNat) = 5 + len.toNat),
        payStart_add_payLen_of_tiles (htiles.mpr ⟨hlen, hfits⟩)⟩
  · obtain ⟨hnoPayload, hshort⟩ := not_or.mp hfits
    rw [Bool.not_eq_true] at hnoPayload
    subst hnoPayload
    refine ⟨_, aflenOp_residual hcontext (lt_of_le_of_ne (Nat.le_of_not_lt hover) hshort) hview, rfl, ?_, fun h => absurd rfl h⟩
    exact ⟨fun h => absurd rfl h, fun h => absurd (htiles.mp h).2 hfits⟩

/-- Settles O34: `SKIPBYTE` is the advance law. -/
theorem skipbyteDropsOneByte : Obligations.SkipbyteDropsOneByte := by
  unfold Obligations.SkipbyteDropsOneByte
  intro s b hph hlow hhigh
  have hregion : inRegion Config.params .skip 4 s = true := inRegion_iff.mpr ⟨hph, hlow, Nat.lt_succ_of_le hhigh⟩
  refine (skipbyteOp_of_context (b := b) hregion).trans (congrArg Host.Outcome.next ?_)
  by_cases hlast : s.pos = 187
  · rw [if_pos hlast, advance_last (by rw [hlast]; rfl)]
    rfl
  · rw [if_neg hlast, advance_inside fun h => hlast (BitVec.eq_of_toNat_eq h)]
    rfl

end Sys2Proof

namespace Sys2Proof.Machine

/-! ### The transition table of R139 -/

/-- `t` is the step from `s` that the cell gives: its phase, its offset and what it emits. -/
structure Cell.Gives (c : Cell) (s t : State) : Prop where
  phase : t.phase = c.phase
  pos : t.pos = c.pos
  out : t.out = s.out ++ c.out

section cells
variable {v : Bool} {s s' : State} {b : Byte}

theorem gives_raise (c : Cause) {before : List OutEvent} (hpos : s'.pos = s.pos) (hout : s'.out = s.out ++ before) :
    (Cell.raise c s.pos before).Gives s (raise c s') :=
  ⟨rfl, hpos, by rw [raise_out, hout, hpos, List.append_assoc]; rfl⟩

/-- The end of a region's cell is the advance law (R137). -/
theorem gives_go {ph : Phase} {before : List OutEvent} (hph : s.pos ≠ 187 → s'.phase = ph) (hpos : s'.pos = s.pos)
    (hout : s'.out = s.out ++ before) : (Cell.go ph s.pos before).Gives s (advance (Config.paramsWith v) s') := by
  unfold Cell.go
  by_cases hlast : s.pos = 187
  · rw [if_pos hlast, advance_last (by rw [hpos, hlast]; rfl)]
    exact ⟨rfl, rfl, by rw [setPos_out, setPhase_out, emit_out, hout, List.append_assoc]⟩
  · rw [if_neg hlast, advance_inside fun h => hlast (hpos ▸ BitVec.eq_of_toNat_eq h)]
    exact ⟨hph hlast, by rw [setPos_pos, hpos], hout⟩

theorem Inv.hdr_pos_cases {p : Params} (hinv : Inv p s) (hph : s.phase = .hdr) :
    s.pos = 1 ∨ s.pos = 2 ∨ s.pos = 3 := by
  obtain ⟨hlow, hhigh, -⟩ := hinv.hdr hph
  bv_omega

/-- The first byte of a window (R160, R161). -/
theorem byteOp_gives_idle (hinv : Inv (Config.paramsWith v) s) (hph : s.phase = .idle) :
    ∃ t, byteOp (Config.paramsWith v) b s = .next t ∧ (byteCell (Config.paramsWith v) s b).Gives s t := by
  have hpos := hinv.idle hph
  simp only [byteCell, hph]
  rw [byteOp_idle hph]
  by_cases hb : b = 0x47
  · exact ⟨_, (if_pos hb).trans (syncOp_of_windowStart (by simp) hph hpos), by rw [if_pos hb]; exact ⟨rfl, rfl, by simp⟩⟩
  · exact ⟨_, (if_neg hb).trans (badSyncOp_of_windowStart hph hpos),
      by rw [if_neg hb]; exact gives_raise .badSync rfl (by simp)⟩

/-- Bytes 1 to 3 of a window (R162 to R164). -/
theorem byteOp_gives_hdr (hinv : Inv (Config.paramsWith v) s) (hph : s.phase = .hdr) :
    ∃ t, byteOp (Config.paramsWith v) b s = .next t ∧ (byteCell (Config.paramsWith v) s b).Gives s t := by
  obtain hpos | hpos | hpos := hinv.hdr_pos_cases hph
  · refine ⟨_, (byteOp_hb1 hph hpos).trans (hb1Op_of_context (by simp) hph hpos), ?_⟩
    simp only [byteCell, hph, hpos]
    exact ⟨hph, rfl, by simp⟩
  · refine ⟨_, (byteOp_hb2 hph hpos).trans (hb2Op_of_context (by simp) hph hpos), ?_⟩
    simp only [byteCell, hph, hpos]
    exact ⟨hph, rfl, by simp⟩
  obtain ⟨-, -, -, h0, h1, h2⟩ := hinv.hdr hph
  obtain ⟨b1, h1⟩ := Option.ne_none_iff_exists'.mp (h1 (by rw [hpos]; decide))
  obtain ⟨b2, h2⟩ := Option.ne_none_iff_exists'.mp (h2 (by rw [hpos]; decide))
  refine ⟨_, (byteOp_hb3 hph hpos).trans (hb3Op_of_lanes hph hpos h0 h1 h2), ?_⟩
  have hword : hdrWord { s.hdr with lane3 := some b } = some (joinBytes 0x47 b1 b2 b) := by
    simp [hdrWord, h0, h1, h2]
  have hafc : hdrAfc (joinBytes 0x47 b1 b2 b) = b.extractLsb' 4 2 := by rw [hdrAfc_eq_hdrByte3, hdrByte_join3]
  simp only [byteCell, hph, hword, hafc, hpos, if_true, paramsWith_syncByte]
  set u := commitHeader _ _ s
  have hupos : u.pos = 3 := hpos
  obtain ⟨hPayload, hField, hBoth⟩ := afterHeader_of_region (p := Config.paramsWith v) (by simp) hupos
  have hNeither := afterHeader_of_neither (p := Config.paramsWith v) (by simp) hupos
  obtain h | h | h | h := afc_cases (b.extractLsb' 4 2)
  · rw [h, hNeither, if_neg (by decide), if_pos rfl]
    cases v with
    | true => exact hpos ▸ gives_raise .residual rfl rfl
    | false => exact ⟨rfl, rfl, rfl⟩
  · rw [h, hPayload, if_pos rfl]
    exact ⟨rfl, rfl, rfl⟩
  · rw [h, hField, if_neg (by decide), if_neg (by decide)]
    exact ⟨rfl, rfl, rfl⟩
  · rw [h, hBoth, if_neg (by decide), if_neg (by decide)]
    exact ⟨rfl, rfl, rfl⟩

/-- The length byte (R191 to R194). -/
theorem byteOp_gives_aflen (hinv : Inv (Config.paramsWith v) s) (hph : s.phase = .aflen) :
    ∃ t, byteOp (Config.paramsWith v) b s = .next t ∧ (byteCell (Config.paramsWith v) s b).Gives s t := by
  obtain ⟨hpos, -, hasAf⟩ := hinv.aflen hph
  obtain ⟨hasPayload, hview⟩ := viewHasPayload_of_viewHasAf hasAf
  have hpos : s.pos = 4 := BitVec.eq_of_toNat_eq hpos
  have hcontext := atLengthByte_of_pos v hph hpos
  simp only [byteCell, hph]
  rw [byteOp_aflen hph]
  by_cases hover : 183 < b.toNat
  · rw [if_pos hover]
    exact ⟨_, aflenOp_overrun hcontext hover, gives_raise .afOverrun rfl (by simp)⟩
  rw [if_neg hover]
  by_cases hshort : viewHasPayload s = some false ∧ b.toNat < 183
  · rw [if_pos hshort]
    exact ⟨_, aflenOp_residual hcontext hshort.2 hshort.1, gives_raise .residual rfl (by simp)⟩
  · have hfits : hasPayload = true ∨ b.toNat = 183 := by
      cases hasPayload with
      | true => exact .inl rfl
      | false => exact .inr (le_antisymm (Nat.le_of_not_lt hover) (Nat.le_of_not_lt fun h => hshort ⟨hview, h⟩))
    rw [if_neg hshort]
    refine ⟨_, aflenOp_accepted hcontext (Nat.le_of_not_lt hover) hview hfits, ?_⟩
    rw [lengthAccepted_of_pos (by simp) hpos]
    refine ⟨?_, rfl, rfl⟩
    by_cases hzero : b = 0
    · subst hzero
      rfl
    · have hone : 1 ≤ b.toNat := Nat.one_le_iff_ne_zero.mpr fun h => hzero (BitVec.eq_of_toNat_eq h)
      exact (if_neg hzero).trans (if_pos hone).symm

/-- A body byte (R196). -/
theorem byteOp_gives_af (hinv : Inv (Config.paramsWith v) s) (hph : s.phase = .af) :
    ∃ t, byteOp (Config.paramsWith v) b s = .next t ∧ (byteCell (Config.paramsWith v) s b).Gives s t := by
  obtain ⟨-, -, r, l, hr, -, hone, hrl, hlmax, hsum, -⟩ := hinv.af hph
  have hregion : inRegion (Config.paramsWith v) .af 5 s = true :=
    inRegion_iff.mpr ⟨hph, by simp at hsum; omega, hinv.pos⟩
  refine ⟨_, (byteOp_af hph).trans (afbyteOp_of_context hregion hr hone (hrl.trans hlmax)), ?_⟩
  simp only [byteCell, hph, hr, bodyByte]
  refine gives_go (fun hnotLast => ?_) (by split <;> rfl) (by split <;> rfl)
  have hinside : s.pos.toNat < 187 :=
    lt_of_le_of_ne (Nat.le_of_lt_succ hinv.pos) fun h => hnotLast (BitVec.eq_of_toNat_eq h)
  by_cases hlast : r = 1
  · rw [if_pos ⟨hlast, hinside⟩, if_pos (congrArg some hlast)]
    rfl
  · rw [if_neg fun h => hlast h.1, if_neg fun h => hlast (Option.some.inj h)]
    exact hph

/-- Every byte does what its cell says. -/
theorem byteOp_gives_byteCell (hinv : Inv (Config.paramsWith v) s) (b : Byte) :
    ∃ t, byteOp (Config.paramsWith v) b s = .next t ∧ (byteCell (Config.paramsWith v) s b).Gives s t := by
  cases hph : s.phase with
  | idle => exact byteOp_gives_idle hinv hph
  | hdr => exact byteOp_gives_hdr hinv hph
  | aflen => exact byteOp_gives_aflen hinv hph
  | af => exact byteOp_gives_af hinv hph
  | payload =>
    obtain ⟨-, -, hstart⟩ := hinv.payload hph
    have hlow : 4 ≤ s.pos.toNat := by
      obtain ⟨-, h⟩ | ⟨-, -, l, -, -, h⟩ := hstart
      · exact h
      · exact (Nat.le_add_right ..).trans h
    have hregion := inRegion_iff.mpr ⟨hph, hlow, hinv.pos⟩
    refine ⟨_, (byteOp_payload hph).trans (paybyteOp_of_context hregion), ?_⟩
    simp only [byteCell, hph]
    exact gives_go (fun _ => hph) rfl rfl
  | skip =>
    obtain ⟨-, -, -, hlow⟩ := hinv.skip hph
    have hregion := inRegion_iff.mpr ⟨hph, hlow, hinv.pos⟩
    refine ⟨_, (byteOp_skip hph).trans (skipbyteOp_of_context hregion), ?_⟩
    simp only [byteCell, hph]
    exact gives_go (fun _ => hph) rfl (by simp)
  | err =>
    refine ⟨_, byteOp_err hph, ?_⟩
    simp only [byteCell, hph]
    exact ⟨hph, rfl, by simp⟩

/-- Every event does what its cell says. -/
theorem react_gives_tableCell (hinv : Inv (Config.paramsWith v) s) (ev : Event) :
    ∃ t, react (Config.paramsWith v) ev s = .next t ∧ (tableCell (Config.paramsWith v) s ev).Gives s t := by
  cases ev with
  | reset => exact ⟨_, rfl, rfl, rfl, by simp [tableCell]⟩
  | clear => exact ⟨_, rfl, rfl, rfl, by simp [tableCell]⟩
  | nop => exact ⟨_, rfl, rfl, rfl, by simp [tableCell, nopOp]⟩
  | byte b => exact byteOp_gives_byteCell hinv b
  | srcerr =>
    refine ⟨_, rfl, ?_⟩
    simp only [tableCell, srcerrOp]
    by_cases herr : s.phase = .err
    · rw [if_pos herr, if_pos herr]
      exact ⟨rfl, rfl, by simp [nopOp]⟩
    · rw [if_neg herr, if_neg herr]
      exact gives_raise .sourceIo rfl (by simp)
  | eos =>
    refine ⟨_, rfl, ?_⟩
    simp only [tableCell]
    by_cases herr : s.phase = .err
    · rw [if_pos herr, eosOp, if_pos herr]
      exact ⟨rfl, rfl, by simp [nopOp]⟩
    rw [if_neg herr]
    by_cases hidle : s.phase = .idle
    · rw [if_pos hidle, eosOp_of_idle hidle]
      exact ⟨hidle, hinv.idle hidle, rfl⟩
    · rw [if_neg hidle, eosOp_inside hidle herr]
      exact gives_raise .truncated rfl (by simp)

end cells

end Sys2Proof.Machine

namespace Sys2Proof

open Machine

/-- Settles O51: on the states of R30 every event does what its cell says. -/
theorem stepFunctionIsTheTransitionTable : Obligations.StepFunctionIsTheTransitionTable := by
  unfold Obligations.StepFunctionIsTheTransitionTable
  intro v ev s hinv hout
  obtain ⟨t, hstep, hphase, hpos, hcell⟩ := react_gives_tableCell hinv ev
  rw [hout, List.nil_append] at hcell
  exact ⟨t, hstep, by rw [hphase, hpos, hcell]⟩

/-- Settles O50: every cell of the table is a next state. -/
theorem noStepStops : Obligations.NoStepStops := by
  unfold Obligations.NoStepStops
  refine ⟨fun s hinv => ?_, fun v ev s hinv => ?_⟩
  · obtain ⟨t, hstep, -⟩ := react_gives_tableCell (v := true) (hinv.of_registers s.input.tail []) (nextEvent s)
    exact ⟨t, (step_eq_react s).trans hstep⟩
  · obtain ⟨t, hstep, -⟩ := react_gives_tableCell hinv ev
    exact ⟨t, hstep⟩

end Sys2Proof

namespace Sys2Proof.Machine

/-! ### How a byte operation ends: in a raise or by the advance law (R137, R250) -/

/-- A byte operation, and the raise of another event, from `s` to `t`: it raises an error, after a header at most; or it
emits one event at most and goes on inside the window; or it does so and ends the window with `Done`. -/
inductive Proceeds (p : Params) (s t : State) : Prop where
  | raised (c : Cause) (header : Option HdrRecord) (hph : s.phase ≠ .err) (hph' : t.phase = .err)
      (hpos : t.pos = s.pos) (hcause : t.errCause = some c)
      (hout : t.out = s.out ++ ((header.map OutEvent.hdr).toList ++ [.err c s.pos]))
      (hheader : ∀ r ∈ header, c = .residual ∧ s.pos = 3 ∧ r.afc = 0b00)
  | inside (e : Option OutEvent) (hph : s.phase ≠ .err) (hnotLast : s.pos.toNat ≠ p.pktSize - 1)
      (hph' : t.phase ≠ .err ∧ t.phase ≠ .idle) (hpos : t.pos = s.pos + 1) (hcause : t.errCause = s.errCause)
      (hout : t.out = s.out ++ e.toList) (hquiet : ∀ x ∈ e, x.isErr = false ∧ x ≠ .done)
  | last (e : Option OutEvent) (hph : s.phase ≠ .err) (hlast : s.pos.toNat = p.pktSize - 1)
      (hph' : t.phase = .idle) (hpos : t.pos = 0) (hcause : t.errCause = s.errCause)
      (hout : t.out = s.out ++ (e.toList ++ [.done])) (hquiet : ∀ x ∈ e, x.isErr = false ∧ x ≠ .done)

section proceeds
variable {p : Params} {s t : State} {b len : Byte}

theorem proceeds_raise {s' : State} (c : Cause) (hph : s.phase ≠ .err) (hpos : s'.pos = s.pos)
    (hout : s'.out = s.out) : Proceeds p s (raise c s') :=
  .raised c none hph rfl hpos rfl (by rw [raise_out, hout, hpos]; rfl) nofun

theorem proceeds_advance {s' : State} (e : Option OutEvent) (hph : s.phase ≠ .err) (hpos : s'.pos = s.pos)
    (hph' : s'.phase ≠ .err ∧ s'.phase ≠ .idle) (hcause : s'.errCause = s.errCause)
    (hout : s'.out = s.out ++ e.toList) (hquiet : ∀ x ∈ e, x.isErr = false ∧ x ≠ .done) :
    Proceeds p s (advance p s') := by
  obtain ⟨hlast, h⟩ | ⟨hnotLast, h⟩ := advance_cases p s' <;> rw [h]
  · exact .last e hph (hpos ▸ hlast) rfl rfl hcause (by simp [hout]) hquiet
  · exact .inside e hph (hpos ▸ hnotLast) hph' (by rw [setPos_pos, hpos]) hcause hout hquiet

theorem proceeds_header (hph : s.phase = .hdr) (hpos : s.pos.toNat = 3) (w : HdrWord) :
    Proceeds p s (afterHeader p (hdrAfc w) (commitHeader w (record p w) s)) := by
  have herr : s.phase ≠ .err := by simp [hph]
  have hpos : s.pos = 3 := BitVec.eq_of_toNat_eq hpos
  set u := commitHeader w (record p w) s
  have hcontinue (ph : Phase) (hph' : ph ≠ .err ∧ ph ≠ .idle) : Proceeds p s (advance p (setPhase ph u)) :=
    proceeds_advance (s' := setPhase ph u) (some (.hdr (record p w))) herr rfl hph' rfl rfl (by simp [OutEvent.isErr])
  obtain ⟨hPayload, hField, hBoth, hNeither⟩ := afterHeader_eq p u
  obtain h | h | h | h := afc_cases (hdrAfc w)
  · rw [h, hNeither, neitherRegion]
    split
    · refine .raised .residual (some (record p w)) herr rfl rfl rfl (List.append_assoc ..) ?_
      rintro r ⟨⟩
      exact ⟨rfl, hpos, h⟩
    · exact hcontinue .skip (by decide)
  · rw [h, hPayload]
    exact hcontinue .payload (by decide)
  · rw [h, hField]
    exact hcontinue .aflen (by decide)
  · rw [h, hBoth]
    exact hcontinue .aflen (by decide)

theorem proceeds_lengthAccepted (hph : s.phase = .aflen) : Proceeds p s (lengthAccepted p len s) :=
  proceeds_advance (some (.afLen len)) (by simp [hph]) rfl
    (by simp only [setPhase_phase]; split <;> decide) rfl rfl (by simp [OutEvent.isErr])

theorem proceeds_bodyByte (hph : s.phase = .af) (r : Byte) : Proceeds p s (bodyByte p b r s) := by
  unfold bodyByte
  split
  · exact proceeds_advance (some (.afByte b)) (by simp [hph]) rfl ⟨nofun, nofun⟩ rfl rfl (by simp [OutEvent.isErr])
  · exact proceeds_advance (some (.afByte b)) (by simp [hph]) rfl (by simp [hph]) rfl rfl (by simp [OutEvent.isErr])

theorem proceeds_sync (hph : s.phase = .idle) :
    Proceeds p s (advance p (setPhase .hdr (dropHeader (setLane0 p.syncByte s)))) :=
  proceeds_advance none (by simp [hph]) rfl ⟨nofun, nofun⟩ rfl (by simp) nofun

theorem proceeds_byteOne (hph : s.phase = .hdr) : Proceeds p s (advance p (setLane1 b s)) :=
  proceeds_advance none (by simp [hph]) rfl (by simp [hph]) rfl (by simp) nofun

theorem proceeds_byteTwo (hph : s.phase = .hdr) : Proceeds p s (advance p (setLane2 b s)) :=
  proceeds_advance none (by simp [hph]) rfl (by simp [hph]) rfl (by simp) nofun

theorem proceeds_pay (hph : s.phase = .payload) : Proceeds p s (advance p (emit (.payByte b) s)) :=
  proceeds_advance (some (.payByte b)) (by simp [hph]) rfl (by simp [hph]) rfl rfl (by simp [OutEvent.isErr])

theorem proceeds_skip (hph : s.phase = .skip) : Proceeds p s (advance p s) :=
  proceeds_advance none (by simp [hph]) rfl (by simp [hph]) rfl (by simp) nofun

/-- Any move but `stay` and a clean `EOS` proceeds. -/
theorem Move.proceeds (h : Move p s t) : t = s ∨ (s.phase = .idle ∧ t = emit .eos s) ∨ Proceeds p s t := by
  cases h with
  | stay => exact .inl rfl
  | cleanEos hph => exact .inr (.inl ⟨hph, rfl⟩)
  | sourceIo hph => exact .inr (.inr (proceeds_raise _ hph rfl rfl))
  | truncated _ hph => exact .inr (.inr (proceeds_raise _ hph rfl rfl))
  | badSync _ hph _ _ => exact .inr (.inr (proceeds_raise _ (by simp [hph]) rfl rfl))
  | overrun _ hph _ _ => exact .inr (.inr (proceeds_raise _ (by simp [hph]) rfl rfl))
  | residual _ hph _ _ _ => exact .inr (.inr (proceeds_raise _ (by simp [hph]) rfl rfl))
  | sync hph _ => exact .inr (.inr (proceeds_sync hph))
  | byteOne b hph _ => exact .inr (.inr (proceeds_byteOne hph))
  | byteTwo b hph _ => exact .inr (.inr (proceeds_byteTwo hph))
  | header w hph hpos _ _ _ => exact .inr (.inr (proceeds_header hph hpos w))
  | accepted len _ hph _ _ _ _ => exact .inr (.inr (proceeds_lengthAccepted hph))
  | body b r hph _ _ _ _ _ => exact .inr (.inr (proceeds_bodyByte hph r))
  | pay b hph _ _ => exact .inr (.inr (proceeds_pay hph))
  | skip hph _ _ => exact .inr (.inr (proceeds_skip hph))

/-- Outside `ERR` a byte that is answered proceeds. -/
theorem byteOp_proceeds (hph : s.phase ≠ .err) (h : byteOp p b s = .next t) : Proceeds p s t := by
  cases hphase : s.phase with
  | idle =>
    rw [byteOp_idle hphase] at h
    split at h
    · obtain ⟨-, ht⟩ := inContext_next.mp h
      cases ht
      exact proceeds_sync hphase
    · obtain ⟨-, ht⟩ := inContext_next.mp h
      cases ht
      exact proceeds_raise _ hph rfl rfl
  | hdr =>
    simp only [byteOp, hphase] at h
    split at h
    · obtain ⟨-, ht⟩ := inContext_next.mp h
      cases ht
      exact proceeds_byteOne hphase
    split at h
    · obtain ⟨-, ht⟩ := inContext_next.mp h
      cases ht
      exact proceeds_byteTwo hphase
    split at h
    next hpos =>
      obtain ⟨w, -, -, -, -, rfl⟩ := hb3Op_next h
      exact proceeds_header hphase (by rw [hpos]; rfl) w
    · cases h
  | aflen =>
    rw [byteOp_aflen hphase] at h
    obtain ⟨-, rfl⟩ | ⟨-, -, rfl⟩ | ⟨-, -, rfl⟩ := aflenOp_next h
    · exact proceeds_raise _ hph rfl rfl
    · exact proceeds_raise _ hph rfl rfl
    · exact proceeds_lengthAccepted hphase
  | af =>
    rw [byteOp_af hphase] at h
    obtain ⟨r, rfl⟩ := afbyteOp_next h
    exact proceeds_bodyByte hphase r
  | payload =>
    rw [byteOp_payload hphase] at h
    obtain ⟨-, ht⟩ := inContext_next.mp h
    cases ht
    exact proceeds_pay hphase
  | skip =>
    rw [byteOp_skip hphase] at h
    obtain ⟨-, ht⟩ := inContext_next.mp h
    cases ht
    exact proceeds_skip hphase
  | err => exact absurd hphase hph

/-! ### Which registers a move writes (D6) -/

section frames
variable (p : Params) (b r len : Byte) (s : State)

@[simp] theorem lengthAccepted_hdr : (lengthAccepted p len s).hdr = s.hdr := advance_hdr ..
@[simp] theorem lengthAccepted_hdrValid : (lengthAccepted p len s).hdrValid = s.hdrValid := advance_hdrValid ..
@[simp] theorem lengthAccepted_input : (lengthAccepted p len s).input = s.input := advance_input ..

@[simp] theorem bodyByte_hdr : (bodyByte p b r s).hdr = s.hdr := by
  rw [bodyByte, advance_hdr]; split <;> rfl
@[simp] theorem bodyByte_hdrValid : (bodyByte p b r s).hdrValid = s.hdrValid := by
  rw [bodyByte, advance_hdrValid]; split <;> rfl
@[simp] theorem bodyByte_afLen : (bodyByte p b r s).afLen = s.afLen := by
  rw [bodyByte, advance_afLen]; split <;> rfl
@[simp] theorem bodyByte_input : (bodyByte p b r s).input = s.input := by
  rw [bodyByte, advance_input]; split <;> rfl

end frames

/-- A move leaves `hdr`, or writes the lane of its context (R160 to R164). -/
theorem Move.hdr_cases (h : Move p s t) :
    t.hdr = s.hdr ∨ ((s.phase = .idle ∧ s.pos = 0) ∧ ∃ b, t.hdr = { s.hdr with lane0 := some b }) ∨
      ((s.phase = .hdr ∧ s.pos = 1) ∧ ∃ b, t.hdr = { s.hdr with lane1 := some b }) ∨
      ((s.phase = .hdr ∧ s.pos = 2) ∧ ∃ b, t.hdr = { s.hdr with lane2 := some b }) ∨
      ((s.phase = .hdr ∧ s.pos = 3) ∧ ∃ b, t.hdr = { s.hdr with lane3 := some b }) := by
  cases h with
  | sync hph hpos => exact .inr (.inl ⟨⟨hph, BitVec.eq_of_toNat_eq hpos⟩, p.syncByte, advance_hdr ..⟩)
  | badSync b hph hpos _ => exact .inr (.inl ⟨⟨hph, BitVec.eq_of_toNat_eq hpos⟩, b, rfl⟩)
  | byteOne b hph hpos => exact .inr (.inr (.inl ⟨⟨hph, BitVec.eq_of_toNat_eq hpos⟩, b, advance_hdr ..⟩))
  | byteTwo b hph hpos => exact .inr (.inr (.inr (.inl ⟨⟨hph, BitVec.eq_of_toNat_eq hpos⟩, b, advance_hdr ..⟩)))
  | header w hph hpos _ _ _ =>
    exact .inr (.inr (.inr (.inr ⟨⟨hph, BitVec.eq_of_toNat_eq hpos⟩, hdrByte w 3, (afterHeader_keeps ..).1⟩)))
  | stay | sourceIo | cleanEos | truncated | overrun | residual => exact .inl rfl
  | accepted => exact .inl (lengthAccepted_hdr ..)
  | body => exact .inl (bodyByte_hdr ..)
  | pay | skip => exact .inl (advance_hdr ..)

theorem Move.afLen (h : Move p s t) (hph : s.phase ≠ .aflen) : t.afLen = s.afLen := by
  cases h with
  | stay | sourceIo | cleanEos | truncated | badSync => rfl
  | sync | byteOne | byteTwo | pay | skip => exact advance_afLen ..
  | header => exact (afterHeader_frame ..).1
  | body => exact bodyByte_afLen ..
  | overrun _ haflen | residual _ haflen | accepted _ _ haflen => exact absurd haflen hph

theorem Move.afRem (h : Move p s t) (hph : s.phase ≠ .aflen) (hph' : s.phase ≠ .af) : t.afRem = s.afRem := by
  cases h with
  | stay | sourceIo | cleanEos | truncated | badSync => rfl
  | sync | byteOne | byteTwo | pay | skip => exact advance_afRem ..
  | header => exact (afterHeader_frame ..).2.1
  | body _ _ haf => exact absurd haf hph'
  | overrun _ haflen | residual _ haflen | accepted _ _ haflen => exact absurd haflen hph

theorem Move.hdrValid (h : Move p s t) (hidle : s.phase ≠ .idle) (hheader : ¬(s.phase = .hdr ∧ s.pos = 3)) :
    t.hdrValid = s.hdrValid := by
  cases h with
  | stay | sourceIo | cleanEos | truncated | overrun | residual => rfl
  | byteOne | byteTwo | pay | skip => exact advance_hdrValid ..
  | accepted => exact lengthAccepted_hdrValid ..
  | body => exact bodyByte_hdrValid ..
  | sync hph | badSync _ hph => exact absurd hph hidle
  | header _ hph hpos => exact absurd ⟨hph, BitVec.eq_of_toNat_eq hpos⟩ hheader

theorem Move.input (h : Move p s t) : t.input = s.input := by
  cases h with
  | stay | sourceIo | cleanEos | truncated | badSync | overrun | residual => rfl
  | sync | byteOne | byteTwo | pay | skip => exact advance_input ..
  | header => exact (afterHeader_frame ..).2.2
  | accepted => exact lengthAccepted_input ..
  | body => exact bodyByte_input ..

theorem Proceeds.errCause (h : Proceeds p s t) (hph : t.phase ≠ .err) : t.errCause = s.errCause := by
  cases h with
  | raised _ _ _ herr => exact absurd herr hph
  | inside _ _ _ _ _ hcause => exact hcause
  | last _ _ _ _ _ hcause => exact hcause

theorem Move.errCause (h : Move p s t) (hph : t.phase ≠ .err) : t.errCause = s.errCause := by
  obtain rfl | ⟨-, rfl⟩ | h := h.proceeds
  · rfl
  · rfl
  · exact h.errCause hph

/-- A byte operation emits two events at most, one of them on the byte port. -/
theorem Proceeds.out (h : Proceeds p s t) : ∃ new : List OutEvent,
    t.out = s.out ++ new ∧ new.length ≤ 2 ∧ (new.filterMap OutEvent.portByte).length ≤ 1 := by
  have hone (e : Option OutEvent) : e.toList.length ≤ 1 := by cases e <;> simp
  have htwo (e : Option OutEvent) (x : OutEvent) (hx : x.portByte = none) :
      (e.toList ++ [x]).length ≤ 2 ∧ ((e.toList ++ [x]).filterMap OutEvent.portByte).length ≤ 1 := by
    have hport : [x].filterMap OutEvent.portByte = [] := by simp [hx]
    rw [List.length_append, List.filterMap_append, hport, List.append_nil]
    exact ⟨Nat.add_le_add_right (hone e) 1, (List.length_filterMap_le ..).trans (hone e)⟩
  cases h with
  | raised c header _ _ _ _ hout _ => exact ⟨_, hout, htwo _ _ rfl⟩
  | inside e _ _ _ _ _ hout _ =>
    exact ⟨_, hout, (hone e).trans one_le_two, (List.length_filterMap_le ..).trans (hone e)⟩
  | last e _ _ _ _ _ hout _ => exact ⟨_, hout, htwo e .done rfl⟩

theorem Move.out (h : Move p s t) : ∃ new : List OutEvent,
    t.out = s.out ++ new ∧ new.length ≤ 2 ∧ (new.filterMap OutEvent.portByte).length ≤ 1 := by
  obtain rfl | ⟨-, rfl⟩ | h := h.proceeds
  · exact ⟨[], by simp, by decide, by decide⟩
  · exact ⟨[.eos], rfl, by decide, by decide⟩
  · exact h.out

/-! ### Stickiness (R251 to R254) -/

/-- In `ERR` no move changes anything. -/
theorem Move.eq_of_err (h : Move p s t) (hph : s.phase = .err) : t = s := by
  obtain h | ⟨hidle, -⟩ | h := h.proceeds
  · exact h
  · simp [hph] at hidle
  · cases h <;> contradiction

/-- In `ERR` a run without the host's commands keeps the registers and emits nothing. -/
theorem runEvents_err {evs : List Event} (hph : s.phase = .err) (hevs : ∀ ev ∈ evs, ev ≠ .reset ∧ ev ≠ .clear) :
    (runEvents p evs s).map registersAndOutput = some ({ s with input := [], out := [] }, []) := by
  induction evs generalizing s with
  | nil => rfl
  | cons ev evs ih =>
    obtain ⟨⟨hreset, hclear⟩, hrest⟩ := List.forall_mem_cons.mp hevs
    have hstep : react p ev { s with out := [] } = .next { s with out := [] } := react_of_phase_err hph hreset hclear
    rw [runEvents_cons hstep]
    simpa using ih (s := { s with out := [] }) hph hrest

theorem countP_isErr_of_quiet {e : Option OutEvent} (h : ∀ x ∈ e, x.isErr = false ∧ x ≠ .done) :
    e.toList.countP OutEvent.isErr = 0 := by
  rw [List.countP_eq_zero]
  intro x hx
  rw [(h x (Option.mem_toList.mp hx)).1]
  exact Bool.false_ne_true

/-- A move emits an error only when it enters `ERR`, and then one. -/
theorem Move.countP_isErr (h : Move p s t) (hout : s.out = []) :
    t.out.countP OutEvent.isErr = 0 ∨ (t.out.countP OutEvent.isErr = 1 ∧ t.phase = .err) := by
  obtain rfl | ⟨-, rfl⟩ | h := h.proceeds
  · exact .inl (by rw [hout]; rfl)
  · exact .inl (by rw [emit_out, hout]; rfl)
  cases h with
  | raised c header _ hph' _ _ ht _ =>
    refine .inr ⟨?_, hph'⟩
    rw [ht, hout, List.nil_append, List.countP_append]
    cases header <;> rfl
  | inside e _ _ _ _ _ ht hquiet => exact .inl (by rw [ht, hout, List.nil_append, countP_isErr_of_quiet hquiet])
  | last e _ _ _ _ _ ht hquiet =>
    refine .inl ?_
    rw [ht, hout, List.nil_append, List.countP_append, countP_isErr_of_quiet hquiet]
    rfl

/-- A run of an event and others that completes is a step and a run. -/
theorem runEvents_cons_some {ev : Event} {evs : List Event} {outs : List OutEvent}
    (h : runEvents p (ev :: evs) s = some (t, outs)) : ∃ (u : State) (more : List OutEvent),
      react p ev { s with out := [] } = .next u ∧ runEvents p evs u = some (t, more) ∧ outs = u.out ++ more := by
  cases hstep : react p ev { s with out := [] } with
  | next u =>
    rw [runEvents_cons hstep] at h
    obtain ⟨⟨t', more⟩, hrun, ht⟩ := Option.map_eq_some_iff.mp h
    obtain ⟨rfl, rfl⟩ := Prod.mk.inj ht
    exact ⟨u, more, rfl, hrun, rfl⟩
  | fault _ => simp [runEvents, hstep] at h
  | refused _ => simp [runEvents, hstep] at h

/-- A run without the host's commands emits one error at most (R254). -/
theorem runEvents_countP_isErr {evs : List Event} {outs : List OutEvent}
    (hevs : ∀ ev ∈ evs, ev ≠ .reset ∧ ev ≠ .clear) (h : runEvents p evs s = some (t, outs)) :
    outs.countP OutEvent.isErr ≤ 1 := by
  induction evs generalizing s outs with
  | nil => cases h; exact Nat.zero_le 1
  | cons ev evs ih =>
    obtain ⟨⟨hreset, hclear⟩, hrest⟩ := List.forall_mem_cons.mp hevs
    obtain ⟨u, more, hstep, hrun, rfl⟩ := runEvents_cons_some h
    have hmove : Move p { s with out := [] } u := by
      obtain ⟨h, -⟩ | ⟨h, -⟩ | ⟨-, -, hmove⟩ := react_move hstep
      · exact absurd h hreset
      · exact absurd h hclear
      · exact hmove
    rw [List.countP_append]
    obtain hzero | ⟨hone, hph⟩ := hmove.countP_isErr rfl
    · rw [hzero, Nat.zero_add]
      exact ih hrest hrun
    · have hsilent := runEvents_err (p := p) hph hrest
      rw [hrun] at hsilent
      obtain rfl : more = [] := congrArg Prod.snd (Option.some.inj hsilent)
      exact hone.le

/-! ### The end of a window (R222) -/

/-- Behind the header and the length byte a window is in a region, with a valid header (R30). -/
theorem Inv.region_of_pos (hsize : p.hdrSize = 4) (hinv : Inv p s) (hpos : 4 < s.pos.toNat) (hph : s.phase ≠ .err) :
    (s.phase = .af ∨ s.phase = .payload ∨ s.phase = .skip) ∧ s.hdrValid = true := by
  cases h : s.phase with
  | idle => rw [hinv.idle h] at hpos; cases hpos
  | hdr => have := (hinv.hdr h).2.1; omega
  | aflen => have := (hinv.aflen h).1; omega
  | af => exact ⟨.inl rfl, (hinv.af h).1⟩
  | payload => exact ⟨.inr (.inl rfl), (hinv.payload h).1⟩
  | skip => exact ⟨.inr (.inr rfl), (hinv.skip h).2.1⟩
  | err => exact absurd h hph

/-- The byte at the last offset ends the window: `Done` is its last event, and the machine is in `IDLE`. -/
theorem byteOp_last {v : Bool} (hinv : Inv (Config.paramsWith v) s) (hph : s.phase ≠ .err) (hpos : s.pos = 187)
    (h : byteOp (Config.paramsWith v) b s = .next t) : t.phase = .idle ∧ t.pos = 0 ∧ t.out.getLast? = some .done := by
  have hcell : ∃ before, byteCell (Config.paramsWith v) s b = { phase := .idle, pos := 0, out := before ++ [.done] } := by
    obtain ⟨hregion | hregion | hregion, -⟩ := hinv.region_of_pos rfl (by rw [hpos]; decide) hph <;>
      (simp only [byteCell, hregion, Cell.go, hpos, if_true]; exact ⟨_, rfl⟩)
  obtain ⟨before, hcell⟩ := hcell
  obtain ⟨t', hstep, hgives⟩ := byteOp_gives_byteCell hinv b
  obtain rfl : t = t' := Host.Outcome.next.inj (h.symm.trans hstep)
  obtain ⟨hphase, hzero, hout⟩ := hgives
  rw [hcell] at hphase hzero hout
  exact ⟨hphase, hzero, by rw [hout, ← List.append_assoc, List.getLast?_concat]⟩

/-- `Done` is emitted by the byte at the last offset only (R222). -/
theorem done_mem_react_iff {v : Bool} {ev : Event} (hinv : Inv (Config.paramsWith v) s) (hout : s.out = [])
    (h : react (Config.paramsWith v) ev s = .next t) :
    .done ∈ t.out ↔ (∃ b : Byte, ev = .byte b) ∧ s.pos = 187 ∧ s.phase ≠ .err := by
  constructor
  · intro hdone
    cases ev with
    | reset | clear | nop =>
      cases h
      simp [nopOp, hout] at hdone
    | srcerr =>
      cases h
      unfold srcerrOp at hdone
      split at hdone <;> simp [nopOp, hout] at hdone
    | eos =>
      cases h
      unfold eosOp at hdone
      split at hdone
      · simp [nopOp, hout] at hdone
      split at hdone <;> simp [hout] at hdone
    | byte b =>
      by_cases hph : s.phase = .err
      · cases (byteOp_err hph).symm.trans h
        simp [hout] at hdone
      cases byteOp_proceeds hph h with
      | raised _ header _ _ _ _ ht => cases header <;> simp [ht, hout] at hdone
      | inside e _ _ _ _ _ ht hquiet =>
        rw [ht, hout, List.nil_append, Option.mem_toList] at hdone
        exact absurd rfl (hquiet _ hdone).2
      | last _ _ hlast => exact ⟨⟨b, rfl⟩, BitVec.eq_of_toNat_eq hlast, hph⟩
  · rintro ⟨⟨b, rfl⟩, hpos, hph⟩
    exact List.mem_of_getLast? (byteOp_last hinv hph hpos h).2.2

end proceeds

end Sys2Proof.Machine

namespace Sys2Proof

open Machine

/-- Settles O41: a move that enters `ERR` is the raise of one error. -/
theorem errorEntryIsPrecise : Obligations.ErrorEntryIsPrecise := by
  unfold Obligations.ErrorEntryIsPrecise
  intro i s t hstep hph hph'
  obtain ⟨-, rfl⟩ | ⟨-, rfl⟩ | ⟨-, -, hmove⟩ := exec_move hstep
  · cases hph'
  · cases hph'
  obtain rfl | ⟨hidle, rfl⟩ | h := hmove.proceeds
  · exact absurd hph' hph
  · exact absurd hph' hph
  cases h with
  | raised c header _ _ hpos hcause hout hheader =>
    refine ⟨c, hcause, hpos, ?_⟩
    cases header with
    | none => exact .inl hout
    | some r => exact .inr ⟨r, hout, hheader r rfl⟩
  | inside _ _ _ hne => exact absurd hph' hne.1
  | last _ _ _ hidle => rw [hidle] at hph'; cases hph'

/-- Settles O42: in `ERR` the one move is to stay, and so along a run. -/
theorem errIsStickyUntilTheHostActs : Obligations.ErrIsStickyUntilTheHostActs := by
  unfold Obligations.ErrIsStickyUntilTheHostActs
  refine ⟨fun i s t hph hreset hclear hstep => ?_, fun v evs s hph hevs => runEvents_err hph hevs⟩
  obtain ⟨h, -⟩ | ⟨h, -⟩ | ⟨-, -, hmove⟩ := exec_move hstep
  · exact absurd h hreset
  · exact absurd h hclear
  · exact hmove.eq_of_err hph

/-- Settles O43: by induction on the events; the first error enters `ERR`, where the rest of the run emits nothing. -/
theorem atMostOneErrorUntilTheHostActs : Obligations.AtMostOneErrorUntilTheHostActs := by
  unfold Obligations.AtMostOneErrorUntilTheHostActs
  exact fun v evs s t outs hevs h => runEvents_countP_isErr hevs h

/-- Settles O44: register by register over the moves; the events without a byte from their meanings. -/
theorem registersAreWrittenOnlyInTheirContexts : Obligations.RegistersAreWrittenOnlyInTheirContexts := by
  unfold Obligations.RegistersAreWrittenOnlyInTheirContexts
  intro i s t hstep
  refine ⟨?input, ?out, fun hreset => ?registers, fun hi => ?events⟩
  case input =>
    obtain ⟨-, rfl⟩ | ⟨-, rfl⟩ | ⟨-, -, hmove⟩ := exec_move hstep
    · rfl
    · rfl
    · exact hmove.input
  case out =>
    obtain ⟨-, rfl⟩ | ⟨-, rfl⟩ | ⟨-, -, hmove⟩ := exec_move hstep
    · exact ⟨[], by simp, by decide, by decide⟩
    · exact ⟨[], by simp, by decide, by decide⟩
    · exact hmove.out
  case registers =>
    obtain ⟨h, -⟩ | ⟨rfl, rfl⟩ | ⟨-, -, hmove⟩ := exec_move hstep
    · exact absurd h hreset
    · exact ⟨fun _ => rfl, fun _ => rfl, fun _ => rfl, fun _ => rfl, fun _ => rfl, fun _ _ => rfl,
        fun h => absurd rfl h, fun h => absurd rfl h⟩
    · refine ⟨?_, ?_, ?_, ?_, hmove.afLen, hmove.afRem, fun _ => hmove.hdrValid, fun _ => hmove.errCause⟩
      all_goals
        intro hcontext
        have hlanes := hmove.hdr_cases
        grind
  case events =>
    obtain rfl | rfl | rfl | rfl := hi <;> cases hstep
    · exact ⟨rfl, rfl, rfl, fun h => absurd rfl h⟩
    · unfold srcerrOp
      split <;> exact ⟨rfl, rfl, rfl, fun _ => ⟨rfl, rfl⟩⟩
    · unfold eosOp
      split
      · exact ⟨rfl, rfl, rfl, fun _ => ⟨rfl, rfl⟩⟩
      split <;> exact ⟨rfl, rfl, rfl, fun _ => ⟨rfl, rfl⟩⟩
    · exact ⟨rfl, rfl, rfl, fun _ => ⟨rfl, rfl⟩⟩

/-- Settles O19: the table gives the next state, and the byte either raises or advances. -/
theorem byteCompletesAndMovesPos : Obligations.ByteCompletesAndMovesPos := by
  unfold Obligations.ByteCompletesAndMovesPos
  intro s b hinv hph
  obtain ⟨t, hstep, -⟩ := byteOp_gives_byteCell (v := true) hinv b
  refine ⟨t, hstep, ?_⟩
  cases byteOp_proceeds hph hstep with
  | raised _ _ _ hph' hpos =>
    exact ⟨fun _ => hpos, fun h => absurd hph' h, fun h => absurd hph' h⟩
  | inside _ _ hnotLast hph' hpos =>
    have hlt : s.pos.toNat + 1 < 188 := by
      have : s.pos.toNat < 188 := hinv.pos
      have : s.pos.toNat ≠ 187 := hnotLast
      omega
    refine ⟨fun h => absurd h hph'.1, fun _ _ => ?_, fun _ hlast => ?_⟩
    · rw [hpos, pos_succ_toNat (paramsWith_fits true) hlt]
    · exact absurd (by rw [hlast]; rfl) hnotLast
  | last _ _ hlast hph' hpos =>
    refine ⟨fun h => ?_, fun _ hnotLast => ?_, fun _ _ => ⟨hpos, hph'⟩⟩
    · rw [hph'] at h; cases h
    · exact absurd (BitVec.eq_of_toNat_eq hlast) hnotLast

/-- Settles O45: `Done` is the advance law's at the last offset, in a region behind a valid header. -/
theorem doneExactlyAtTheLastByte : Obligations.DoneExactlyAtTheLastByte := by
  unfold Obligations.DoneExactlyAtTheLastByte
  intro s t ev hinv hout hstep
  rw [exec_event] at hstep
  have hdone : .done ∈ t.out ↔ (∃ b : Byte, ev = .byte b) ∧ s.pos = 187 ∧ s.phase ≠ .err :=
    done_mem_react_iff (v := true) hinv hout hstep
  refine ⟨hdone, fun h => ?_⟩
  obtain ⟨⟨b, rfl⟩, hpos, herr⟩ := hdone.mp h
  have hmove : Move Config.params s t := byteOp_move hstep
  obtain ⟨hregion, hvalid⟩ := hinv.region_of_pos (by decide) (by rw [hpos]; decide) herr
  have hnotHeader : s.phase ≠ .hdr ∧ s.phase ≠ .aflen ∧ s.phase ≠ .idle := by
    obtain hph | hph | hph := hregion <;> simp [hph]
  obtain ⟨hhdr, haflen, hidle⟩ := hnotHeader
  obtain ⟨hph, hzero, hlast⟩ := byteOp_last (v := true) hinv herr hpos hstep
  refine ⟨hph, hzero, hlast, ?_, (hmove.hdrValid hidle fun h => hhdr h.1).trans hvalid, hmove.afLen haflen⟩
  have hlanes := hmove.hdr_cases
  grind

end Sys2Proof

namespace Sys2Proof.Machine

/-! ### Two states that no later output can tell apart (R75, R283) -/

/-- The states have the same phase, offset and output list, and agree on what the rules of the phase still read. -/
structure Agree (s₁ s₂ : State) : Prop where
  phase : s₁.phase = s₂.phase
  pos : s₁.pos = s₂.pos
  out : s₁.out = s₂.out
  hdr : s₁.phase = .hdr → s₁.hdr.lane0 = s₂.hdr.lane0 ∧ (2 ≤ s₁.pos.toNat → s₁.hdr.lane1 = s₂.hdr.lane1) ∧
    (3 ≤ s₁.pos.toNat → s₁.hdr.lane2 = s₂.hdr.lane2)
  aflen : s₁.phase = .aflen → viewHasPayload s₁ = viewHasPayload s₂
  af : s₁.phase = .af → s₁.afRem = s₂.afRem

/-- Two outcomes agree: the same stop, or next states that agree. -/
inductive AgreeRes : Res → Res → Prop where
  | next {t₁ t₂ : State} (h : Agree t₁ t₂) : AgreeRes (.next t₁) (.next t₂)
  | fault (r : Fault) : AgreeRes (.fault r) (.fault r)

section agree
variable {p : Params} {s₁ s₂ t₁ t₂ : State} {b len : Byte}

theorem agree_raise (c : Cause) (hpos : s₁.pos = s₂.pos) (hout : s₁.out = s₂.out) :
    Agree (raise c s₁) (raise c s₂) :=
  ⟨rfl, hpos, by rw [raise_out, raise_out, hpos, hout], nofun, nofun, nofun⟩

theorem agree_idle (hph₁ : s₁.phase = .idle) (hph₂ : s₂.phase = .idle) (hpos : s₁.pos = s₂.pos)
    (hout : s₁.out = s₂.out) : Agree s₁ s₂ :=
  ⟨hph₁.trans hph₂.symm, hpos, hout, by simp [hph₁], by simp [hph₁], by simp [hph₁]⟩

/-- The advance law looks at the offset only, so states that agree at the next offset agree after it. -/
theorem agree_advance (hpos : s₁.pos = s₂.pos) (hout : s₁.out = s₂.out)
    (h : Agree (setPos (s₁.pos + 1) s₁) (setPos (s₂.pos + 1) s₂)) : Agree (advance p s₁) (advance p s₂) := by
  by_cases hlast : s₁.pos.toNat = p.pktSize - 1
  · rw [advance_last hlast, advance_last (hpos ▸ hlast)]
    exact agree_idle rfl rfl rfl (by simp [hout])
  · rw [advance_inside hlast, advance_inside (hpos ▸ hlast)]
    exact h

/-- In the phases whose rules read no register, agreement is that of phase, offset and output. -/
theorem agree_of_phase {ph : Phase} (hph₁ : s₁.phase = ph) (hph₂ : s₂.phase = ph)
    (hread : ph ≠ .hdr ∧ ph ≠ .aflen ∧ ph ≠ .af) (hpos : s₁.pos = s₂.pos) (hout : s₁.out = s₂.out) : Agree s₁ s₂ :=
  ⟨hph₁.trans hph₂.symm, hpos, hout, fun h => absurd (hph₁.symm.trans h) hread.1,
    fun h => absurd (hph₁.symm.trans h) hread.2.1, fun h => absurd (hph₁.symm.trans h) hread.2.2⟩

theorem agreeRes_inContext {c₁ c₂ : Bool} {k₁ k₂ : Res} (hc : c₁ = c₂) (h : c₁ = true → AgreeRes k₁ k₂) :
    AgreeRes (inContext c₁ k₁) (inContext c₂ k₂) := by
  subst hc
  cases c₁ with
  | true => exact h rfl
  | false => exact .fault _

theorem agreeRes_withValue {α : Type} {o₁ o₂ : Option α} {k₁ k₂ : α → Res} (ho : o₁ = o₂)
    (h : ∀ v, o₁ = some v → AgreeRes (k₁ v) (k₂ v)) : AgreeRes (withValue o₁ k₁) (withValue o₂ k₂) := by
  subst ho
  cases o₁ with
  | some v => exact h v rfl
  | none => exact .fault _

theorem Agree.atOffset (h : Agree s₁ s₂) (ph : Phase) (n : Nat) :
    Machine.atOffset ph n s₁ = Machine.atOffset ph n s₂ := by
  simp only [Machine.atOffset, h.phase, h.pos]

theorem Agree.inRegion (h : Agree s₁ s₂) (ph : Phase) (lo : Nat) :
    Machine.inRegion p ph lo s₁ = Machine.inRegion p ph lo s₂ := by
  simp only [Machine.inRegion, h.phase, h.pos]

theorem Agree.clearOut (h : Agree s₁ s₂) : Agree { s₁ with out := [] } { s₂ with out := [] } :=
  ⟨h.phase, h.pos, rfl, h.hdr, h.aflen, h.af⟩

theorem agreeRes_syncOp (h : Agree s₁ s₂) : AgreeRes (syncOp p s₁) (syncOp p s₂) := by
  refine agreeRes_inContext (h.atOffset ..) fun hc => .next (agree_advance h.pos h.out ?_)
  obtain ⟨-, hpos⟩ := atOffset_iff.mp hc
  have hzero : s₁.pos = 0 := BitVec.eq_of_toNat_eq hpos
  refine ⟨rfl, by simp [h.pos], h.out, fun _ => ⟨rfl, ?_, ?_⟩, nofun, nofun⟩ <;> simp [hzero]

theorem agreeRes_badSyncOp (h : Agree s₁ s₂) : AgreeRes (badSyncOp b s₁) (badSyncOp b s₂) :=
  agreeRes_inContext (h.atOffset ..) fun _ => .next (agree_raise _ h.pos h.out)

theorem agreeRes_hb1Op (h : Agree s₁ s₂) : AgreeRes (hb1Op p b s₁) (hb1Op p b s₂) := by
  refine agreeRes_inContext (h.atOffset ..) fun hc => .next (agree_advance h.pos h.out ?_)
  obtain ⟨hph, hpos⟩ := atOffset_iff.mp hc
  have hone : s₁.pos = 1 := BitVec.eq_of_toNat_eq hpos
  refine ⟨h.phase, by simp [h.pos], h.out, fun _ => ⟨(h.hdr hph).1, fun _ => rfl, ?_⟩, ?_, ?_⟩ <;> simp [hone, hph]

theorem agreeRes_hb2Op (h : Agree s₁ s₂) : AgreeRes (hb2Op p b s₁) (hb2Op p b s₂) := by
  refine agreeRes_inContext (h.atOffset ..) fun hc => .next (agree_advance h.pos h.out ?_)
  obtain ⟨hph, hpos⟩ := atOffset_iff.mp hc
  obtain ⟨h0, h1, -⟩ := h.hdr hph
  exact ⟨h.phase, by simp [h.pos], h.out, fun _ => ⟨h0, fun _ => h1 hpos.ge, fun _ => rfl⟩, by simp [hph],
    by simp [hph]⟩

/-- The continuation of a header reads nothing but `afc`, and what is read later is `has_payload`. -/
theorem agree_afterHeader (afc : BitVec 2) (hpos : s₁.pos = s₂.pos) (hout : s₁.out = s₂.out)
    (hview : viewHasPayload s₁ = viewHasPayload s₂) : Agree (afterHeader p afc s₁) (afterHeader p afc s₂) := by
  have hcontinue (ph : Phase) (hph : ph ≠ .hdr ∧ ph ≠ .af) :
      Agree (advance p (setPhase ph s₁)) (advance p (setPhase ph s₂)) :=
    agree_advance hpos hout ⟨rfl, congrArg (· + 1) hpos, hout, fun h => absurd h hph.1, fun _ => hview,
      fun h => absurd h hph.2⟩
  obtain ⟨hPayload₁, hField₁, hBoth₁, hNeither₁⟩ := afterHeader_eq p s₁
  obtain ⟨hPayload₂, hField₂, hBoth₂, hNeither₂⟩ := afterHeader_eq p s₂
  obtain rfl | rfl | rfl | rfl := afc_cases afc
  · rw [hNeither₁, hNeither₂, neitherRegion, neitherRegion]
    split
    · exact agree_raise _ hpos hout
    · exact hcontinue .skip (by decide)
  · rw [hPayload₁, hPayload₂]
    exact hcontinue .payload (by decide)
  · rw [hField₁, hField₂]
    exact hcontinue .aflen (by decide)
  · rw [hBoth₁, hBoth₂]
    exact hcontinue .aflen (by decide)

theorem agreeRes_hb3Op (h : Agree s₁ s₂) : AgreeRes (hb3Op p b s₁) (hb3Op p b s₂) := by
  refine agreeRes_inContext (h.atOffset ..) fun hc => ?_
  obtain ⟨hph, hpos⟩ := atOffset_iff.mp hc
  obtain ⟨h0, h1, h2⟩ := h.hdr hph
  have h1 := h1 (by omega)
  have h2 := h2 (by omega)
  refine agreeRes_withValue h0 fun b0 e0 => agreeRes_withValue h1 fun b1 e1 => agreeRes_withValue h2 fun b2 e2 => ?_
  have hshow {s : State} (h0 : s.hdr.lane0 = some b0) (h1 : s.hdr.lane1 = some b1) (h2 : s.hdr.lane2 = some b2)
      (r : HdrRecord) : viewWord (commitHeader (joinBytes b0 b1 b2 b) r s) = some (joinBytes b0 b1 b2 b) :=
    viewWord_commitHeader r (by rw [hdrByte_join0, h0]) (by rw [hdrByte_join1, h1]) (by rw [hdrByte_join2, h2])
  refine .next (agree_afterHeader _ h.pos (by simp [h.out]) ?_)
  rw [viewHasPayload, viewHasPayload, hshow e0 e1 e2, hshow (h0.symm.trans e0) (h1.symm.trans e1) (h2.symm.trans e2)]

theorem agreeRes_aflenOp (h : Agree s₁ s₂) : AgreeRes (aflenOp p len s₁) (aflenOp p len s₂) := by
  refine agreeRes_inContext (h.atOffset ..) fun hc => ?_
  obtain ⟨hph, -⟩ := atOffset_iff.mp hc
  split
  · exact .next (agree_raise _ h.pos h.out)
  refine agreeRes_withValue (h.aflen hph) fun hasPayload _ => ?_
  split
  · exact .next (agree_raise _ h.pos h.out)
  refine .next (agree_advance h.pos (by simp [h.out]) ⟨rfl, by simp [h.pos], by simp [h.out], ?_, ?_, fun _ => rfl⟩)
  all_goals
    simp only [setPos_phase, setPhase_phase]
    split <;> nofun

theorem agreeRes_afbyteOp (h : Agree s₁ s₂) : AgreeRes (afbyteOp p b s₁) (afbyteOp p b s₂) := by
  refine agreeRes_inContext (h.inRegion ..) fun hc => ?_
  obtain ⟨hph, -, -⟩ := inRegion_iff.mp hc
  refine agreeRes_withValue (h.af hph) fun r _ => agreeRes_inContext rfl fun _ => .next ?_
  have hph₂ : s₂.phase = .af := h.phase ▸ hph
  unfold bodyByte
  rw [h.pos]
  split
  · exact agree_advance h.pos (by simp [h.out])
      (agree_of_phase (ph := .payload) rfl rfl (by decide) (by simp [h.pos]) (by simp [h.out]))
  · exact agree_advance h.pos (by simp [h.out]) ⟨h.phase, by simp [h.pos], by simp [h.out], by simp [hph],
      by simp [hph], fun _ => rfl⟩

theorem agreeRes_paybyteOp (h : Agree s₁ s₂) : AgreeRes (paybyteOp p b s₁) (paybyteOp p b s₂) := by
  refine agreeRes_inContext (h.inRegion ..) fun hc => .next (agree_advance h.pos (by simp [h.out]) ?_)
  have hph := (inRegion_iff.mp hc).1
  exact agree_of_phase hph (h.phase ▸ hph) (by decide) (by simp [h.pos]) (by simp [h.out])

theorem agreeRes_skipbyteOp (h : Agree s₁ s₂) : AgreeRes (skipbyteOp p b s₁) (skipbyteOp p b s₂) := by
  refine agreeRes_inContext (h.inRegion ..) fun hc => .next (agree_advance h.pos h.out ?_)
  have hph := (inRegion_iff.mp hc).1
  exact agree_of_phase hph (h.phase ▸ hph) (by decide) (by simp [h.pos]) h.out

/-- A byte keeps agreement: each operation reads only what its phase agrees on. -/
theorem agreeRes_byteOp (h : Agree s₁ s₂) : AgreeRes (byteOp p b s₁) (byteOp p b s₂) := by
  unfold byteOp
  rw [← h.phase, ← h.pos]
  split
  · split
    · exact agreeRes_syncOp h
    · exact agreeRes_badSyncOp h
  · split
    · exact agreeRes_hb1Op h
    split
    · exact agreeRes_hb2Op h
    split
    · exact agreeRes_hb3Op h
    · exact .fault _
  · exact agreeRes_aflenOp h
  · exact agreeRes_afbyteOp h
  · exact agreeRes_paybyteOp h
  · exact agreeRes_skipbyteOp h
  · exact .next h

/-- An event keeps agreement. -/
theorem agreeRes_react (h : Agree s₁ s₂) (ev : Event) : AgreeRes (react p ev s₁) (react p ev s₂) := by
  cases ev with
  | reset => exact .next (agree_idle rfl rfl rfl h.out)
  | clear => exact .next (agree_idle rfl rfl rfl h.out)
  | nop => exact .next h
  | byte b => exact agreeRes_byteOp h
  | srcerr =>
    refine .next ?_
    unfold srcerrOp
    rw [← h.phase]
    split
    · exact h
    · exact agree_raise _ h.pos h.out
  | eos =>
    refine .next ?_
    unfold eosOp
    rw [← h.phase]
    split
    · exact h
    split
    next hidle => exact agree_idle hidle (h.phase ▸ hidle) h.pos (by simp [h.out])
    · exact agree_raise _ h.pos h.out

/-- Runs from states that agree have the same output events. -/
theorem runEvents_agree (h : Agree s₁ s₂) (evs : List Event) :
    (runEvents p evs s₁).map Prod.snd = (runEvents p evs s₂).map Prod.snd := by
  induction evs generalizing s₁ s₂ with
  | nil => rfl
  | cons ev evs ih =>
    have hstep := agreeRes_react (p := p) h.clearOut ev
    simp only [runEvents]
    generalize react p ev { s₁ with out := [] } = r₁ at hstep ⊢
    generalize react p ev { s₂ with out := [] } = r₂ at hstep ⊢
    cases hstep with
    | fault r => rfl
    | @next t₁ t₂ hnext =>
      have hmore := congrArg (Option.map (t₁.out ++ ·)) (ih hnext)
      rw [Option.map_map, Option.map_map] at hmore
      rw [Option.map_map, Option.map_map, ← hnext.out]
      exact hmore

end agree

end Sys2Proof.Machine

namespace Sys2Proof

open Machine

/-- Settles O52: window starts agree but for the output list, which a run does not look at. -/
theorem windowsAreIndependentOfEarlierState : Obligations.WindowsAreIndependentOfEarlierState := by
  unfold Obligations.WindowsAreIndependentOfEarlierState
  intro v evs s₁ s₂ ⟨hph₁, hpos₁⟩ ⟨hph₂, hpos₂⟩
  have hout (s : State) : (runEvents (Config.paramsWith v) evs s).map Prod.snd =
      (runEvents (Config.paramsWith v) evs { s with out := [] }).map Prod.snd := by
    cases evs <;> rfl
  rw [hout s₁, hout s₂]
  exact runEvents_agree (by exact agree_idle hph₁ hph₂ (hpos₁.trans hpos₂.symm) rfl) evs

end Sys2Proof

namespace Sys2Proof.Machine

/-! ### A window without an error (40_framer_events.md section 5) -/

/-- `k` bytes of the current window are consumed, and no error is raised. -/
structure InWindow (k : Nat) (s : State) : Prop where
  pos : s.pos.toNat = k
  notErr : s.phase ≠ .err
  opened : 1 ≤ k → s.phase ≠ .idle

section tiling
variable {p : Params} {s t : State} {b : Byte} {k : Nat} {outs : List OutEvent}

theorem inWindow_of_windowStart (h : AtWindowStart s) : InWindow 0 s :=
  ⟨by rw [h.2]; rfl, by rw [h.1]; nofun, nofun⟩

/-- A byte before the last one moves on in the window, without `Done`, unless it raises an error. -/
theorem InWindow.byte_inside (hfits : p.Fits) (hs : InWindow k s) (hlt : k + 1 < p.pktSize) (hout : s.out = [])
    (h : react p (.byte b) s = .next t) (hgood : ∀ e ∈ t.out, e.isErr = false) :
    InWindow (k + 1) t ∧ .done ∉ t.out := by
  cases byteOp_proceeds hs.notErr h with
  | raised c _ _ _ _ _ ht =>
    have : OutEvent.isErr (.err c s.pos) = false := hgood _ (by rw [ht]; simp)
    cases this
  | inside e _ _ hph hpos _ ht hquiet =>
    refine ⟨⟨?_, hph.1, fun _ => hph.2⟩, fun hdone => ?_⟩
    · rw [hpos, pos_succ_toNat hfits (by rw [hs.pos]; exact hlt), hs.pos]
    · rw [ht, hout, List.nil_append, Option.mem_toList] at hdone
      exact (hquiet _ hdone).2 rfl
  | last _ _ hlast => rw [hs.pos] at hlast; omega

/-- The last byte ends the window with `Done`, unless it raises an error. -/
theorem InWindow.byte_last (hs : InWindow (p.pktSize - 1) s) (hout : s.out = []) (h : react p (.byte b) s = .next t)
    (hgood : ∀ e ∈ t.out, e.isErr = false) : AtWindowStart t ∧ ∃ before, t.out = before ++ [.done] ∧ .done ∉ before := by
  cases byteOp_proceeds hs.notErr h with
  | raised c _ _ _ _ _ ht =>
    have : OutEvent.isErr (.err c s.pos) = false := hgood _ (by rw [ht]; simp)
    cases this
  | inside _ _ hnotLast => exact absurd hs.pos hnotLast
  | last e _ _ hph hpos _ ht hquiet =>
    exact ⟨⟨hph, hpos⟩, e.toList, by rw [ht, hout, List.nil_append],
      fun hdone => (hquiet _ (Option.mem_toList.mp hdone)).2 rfl⟩

/-- Bytes short of the window's end move on in the window, without `Done`. -/
theorem InWindow.bytes_inside (hfits : p.Fits) {bs : List Byte} (hs : InWindow k s) (hlt : k + bs.length < p.pktSize)
    (h : runEvents p (bs.map Event.byte) s = some (t, outs)) (hgood : ∀ e ∈ outs, OutEvent.isErr e = false) :
    InWindow (k + bs.length) t ∧ .done ∉ outs := by
  induction bs generalizing s k outs with
  | nil => cases h; exact ⟨hs, List.not_mem_nil⟩
  | cons b bs ih =>
    obtain ⟨u, more, hstep, hrun, rfl⟩ := runEvents_cons_some h
    obtain ⟨hfirst, hrest⟩ := List.forall_mem_append.mp hgood
    rw [List.length_cons] at hlt ⊢
    have hs' : InWindow k { s with out := [] } := ⟨hs.pos, hs.notErr, hs.opened⟩
    obtain ⟨hu, hnotDone⟩ := hs'.byte_inside hfits (by omega) rfl hstep hfirst
    obtain ⟨ht, hnotDone'⟩ := ih hu (by omega) hrun hrest
    exact ⟨by rwa [Nat.add_right_comm, Nat.add_assoc] at ht, by simp [hnotDone, hnotDone']⟩

theorem runEvents_append_some {evs₁ evs₂ : List Event} (h : runEvents p (evs₁ ++ evs₂) s = some (t, outs)) :
    ∃ (u : State) (outs₁ outs₂ : List OutEvent), runEvents p evs₁ s = some (u, outs₁) ∧
      runEvents p evs₂ u = some (t, outs₂) ∧ outs = outs₁ ++ outs₂ := by
  rw [runEvents_append] at h
  obtain ⟨⟨u, outs₁⟩, hrun₁, h⟩ := Option.bind_eq_some_iff.mp h
  obtain ⟨⟨t', outs₂⟩, hrun₂, ht⟩ := Option.map_eq_some_iff.mp h
  obtain ⟨rfl, rfl⟩ := Prod.mk.inj ht
  exact ⟨u, outs₁, outs₂, hrun₁, hrun₂, rfl⟩

/-- A whole window without an error emits `Done` once and last. -/
theorem windowBytes_done (hfits : p.Fits) {bs : List Byte} (hs : AtWindowStart s) (hlen : bs.length = p.pktSize)
    (h : runEvents p (bs.map Event.byte) s = some (t, outs)) (hgood : ∀ e ∈ outs, OutEvent.isErr e = false) :
    AtWindowStart t ∧ ∃ before, outs = before ++ [.done] ∧ .done ∉ before := by
  have hsize : 4 < p.pktSize := hfits.2.1
  obtain rfl | ⟨front, b, rfl⟩ := bs.eq_nil_or_concat'
  · rw [List.length_nil] at hlen; omega
  rw [List.length_append, List.length_singleton] at hlen
  rw [List.map_append] at h
  obtain ⟨u, outs₁, outs₂, hfront, hlast, rfl⟩ := runEvents_append_some h
  obtain ⟨hgood₁, hgood₂⟩ := List.forall_mem_append.mp hgood
  obtain ⟨hu, hnotDone⟩ := (inWindow_of_windowStart hs).bytes_inside hfits (by omega) hfront hgood₁
  obtain ⟨t', more, hstep, hrun, rfl⟩ := runEvents_cons_some hlast
  cases hrun
  rw [List.append_nil] at hgood₂ ⊢
  have hu' : InWindow (p.pktSize - 1) { u with out := [] } := by
    obtain ⟨hpos, herr, hopen⟩ := hu
    exact ⟨by simp only [hpos]; omega, herr, fun _ => hopen (by omega)⟩
  obtain ⟨ht, before, hout, hbefore⟩ := hu'.byte_last rfl hstep hgood₂
  exact ⟨ht, outs₁ ++ before, by rw [hout, List.append_assoc], by simp [hnotDone, hbefore]⟩

end tiling

end Sys2Proof.Machine

namespace Sys2Proof

open Machine

/-- Settles O53: bytes inside a window emit no `Done`, and the last byte of the window emits one. -/
theorem windowTilesExactly : Obligations.WindowTilesExactly := by
  unfold Obligations.WindowTilesExactly
  intro v bs s t outs hs h hgood
  refine ⟨fun hlen => ?_, fun hlen => ?_⟩
  · exact ((inWindow_of_windowStart hs).bytes_inside (paramsWith_fits v) (by simpa using hlen) h hgood).2
  · obtain ⟨ht, before, rfl, hbefore⟩ := windowBytes_done (paramsWith_fits v) hs hlen h hgood
    refine ⟨?_, List.getLast?_concat, ht⟩
    rw [List.count_append, List.count_eq_zero_of_not_mem hbefore]
    rfl

/-- Settles O57: after `k` bytes of a window the offset is `k`, and there `EOS` is the raise of `TRUNCATED`. -/
theorem truncationRecordsTheBytesConsumed : Obligations.TruncationRecordsTheBytesConsumed := by
  unfold Obligations.TruncationRecordsTheBytesConsumed
  intro v bs s t outs hs hone hlen h hgood
  have ht := ((inWindow_of_windowStart hs).bytes_inside (paramsWith_fits v) (by simp; omega) h hgood).1
  rw [Nat.zero_add] at ht
  have hpos : t.pos = BitVec.ofNat 8 bs.length := by rw [← ht.pos, BitVec.ofNat_toNat, BitVec.setWidth_eq]
  have heos : react (Config.paramsWith v) .eos { t with out := [] } = .next (raise .truncated { t with out := [] }) :=
    congrArg Host.Outcome.next (eosOp_inside (ht.opened hone) ht.notErr)
  refine ⟨raise .truncated { t with out := [] }, ?_, rfl, rfl, ht.pos⟩
  rw [runEvents_append, h, Option.bind_some, runEvents_cons heos]
  simp [runEvents, hpos]

end Sys2Proof

namespace Sys2Proof.Machine

/-! ### Runs put together -/

section runs
variable {p : Params} {s t u : State} {outs outs' : List OutEvent}

theorem runEvents_step {ev : Event} {evs : List Event} (hstep : react p ev { s with out := [] } = .next u)
    (hrun : runEvents p evs u = some (t, outs)) (hout : u.out ++ outs = outs') :
    runEvents p (ev :: evs) s = some (t, outs') := by
  rw [runEvents_cons hstep, hrun, Option.map_some, hout]

theorem runEvents_trans {evs evs' : List Event} (h : runEvents p evs s = some (u, outs))
    (h' : runEvents p evs' u = some (t, outs')) : runEvents p (evs ++ evs') s = some (t, outs ++ outs') := by
  rw [runEvents_append, h, Option.bind_some, h', Option.map_some]

end runs

/-! ### The parts of a window (43_payload_done.md section 2) -/

section windows
variable {v : Bool} {s : State}

/-- The state with the bytes 0 to 2 of a window captured, the sync byte being good. -/
def bytesCaptured (b1 b2 : Byte) (s : State) : State :=
  setPos 3 (setLane2 b2 (setPos 2 (setLane1 b1 (setPos 1 (setPhase .hdr (dropHeader (setLane0 0x47
    { s with out := [] })))))))

/-- From a window start the first three bytes are captured, and nothing is emitted (R160, R162, R163). -/
theorem runEvents_bytesCaptured (hs : AtWindowStart s) (b1 b2 : Byte) :
    runEvents (Config.paramsWith v) ([0x47, b1, b2].map Event.byte) s = some (bytesCaptured b1 b2 s, []) := by
  obtain ⟨hph, hpos⟩ := hs
  have hsync : react (Config.paramsWith v) (.byte 0x47) { s with out := [] } =
      .next (setPos 1 (setPhase .hdr (dropHeader (setLane0 0x47 { s with out := [] })))) :=
    (byteOp_idle (s := { s with out := [] }) hph).trans
      ((if_pos rfl).trans (syncOp_of_windowStart (p := Config.paramsWith v) (by simp) hph hpos))
  have hone {s : State} (hph : s.phase = .hdr) (hpos : s.pos = 1) :
      react (Config.paramsWith v) (.byte b1) s = .next (setPos 2 (setLane1 b1 s)) :=
    (byteOp_hb1 hph hpos).trans (hb1Op_of_context (by simp) hph hpos)
  have htwo {s : State} (hph : s.phase = .hdr) (hpos : s.pos = 2) :
      react (Config.paramsWith v) (.byte b2) s = .next (setPos 3 (setLane2 b2 s)) :=
    (byteOp_hb2 hph hpos).trans (hb2Op_of_context (by simp) hph hpos)
  exact runEvents_step hsync (runEvents_step (hone rfl rfl) (runEvents_step (htwo rfl rfl) rfl rfl) rfl) rfl

/-- From a window start, three bytes after the sync byte are the header: its record is emitted, the views show it, and
its class goes on (R164 to R170). -/
theorem runEvents_header (hs : AtWindowStart s) (b1 b2 b3 : Byte) : ∃ t : State,
    runEvents (Config.paramsWith v) ([0x47, b1, b2, b3].map Event.byte) s =
      some (t, .hdr (record (Config.paramsWith v) (joinBytes 0x47 b1 b2 b3)) ::
        if b3.extractLsb' 4 2 = 0b00 ∧ v = true then [.err .residual 3] else []) ∧
      viewWord t = some (joinBytes 0x47 b1 b2 b3) ∧
      (b3.extractLsb' 4 2 = 0b01 → t.phase = .payload ∧ t.pos = 4) ∧
      (b3.extractLsb' 4 2 = 0b10 ∨ b3.extractLsb' 4 2 = 0b11 → t.phase = .aflen ∧ t.pos = 4) ∧
      (b3.extractLsb' 4 2 = 0b00 → v = false → t.phase = .skip ∧ t.pos = 4) := by
  set w := joinBytes 0x47 b1 b2 b3 with hw
  have hstep := (byteOp_hb3 (p := Config.paramsWith v) (s := bytesCaptured b1 b2 s) (b := b3) rfl rfl).trans
    (hb3Op_of_lanes rfl rfl rfl rfl rfl)
  rw [← hw] at hstep
  set u := commitHeader w (record (Config.paramsWith v) w) (bytesCaptured b1 b2 s)
  have hview : viewWord u = some w :=
    viewWord_commitHeader _ (by rw [hdrByte_join0]; rfl) (by rw [hdrByte_join1]; rfl) (by rw [hdrByte_join2]; rfl)
  obtain ⟨hhdr, hvalid, -⟩ := afterHeader_keeps (Config.paramsWith v) (b3.extractLsb' 4 2) u
  obtain ⟨hPayload, hField, hBoth⟩ := afterHeader_of_region (p := Config.paramsWith v) (s := u) (by simp) rfl
  have hNeither := afterHeader_of_neither (p := Config.paramsWith v) (s := u) (by simp) rfl
  refine ⟨_, ?run, (viewWord_congr hhdr hvalid).trans hview, ?payload, ?field, ?neither⟩
  case run =>
    refine runEvents_trans (runEvents_bytesCaptured hs b1 b2) (runEvents_step hstep rfl ?_)
    rw [afterHeader_out v _ rfl, List.append_nil]
    rfl
  case payload =>
    intro h
    rw [h, hPayload]
    exact ⟨rfl, rfl⟩
  case field =>
    rintro (h | h)
    · rw [h, hField]
      exact ⟨rfl, rfl⟩
    · rw [h, hBoth]
      exact ⟨rfl, rfl⟩
  case neither =>
    rintro h rfl
    rw [h, hNeither, if_neg (by decide)]
    exact ⟨rfl, rfl⟩

/-- A region whose byte operation emits `f b` and advances passes its bytes to the end of the window, then `Done`. -/
theorem runEvents_region {ph : Phase} {f : Byte → Option OutEvent}
    (hop : ∀ (s : State) (b : Byte), s.phase = ph → 4 ≤ s.pos.toNat → s.pos.toNat < 188 →
      react (Config.paramsWith v) (.byte b) s =
        .next (advance (Config.paramsWith v) { s with out := s.out ++ (f b).toList }))
    {bs : List Byte} (hph : s.phase = ph) (hlow : 4 ≤ s.pos.toNat) (hlt : s.pos.toNat < 188)
    (hlen : s.pos.toNat + bs.length = 188) :
    ∃ t : State, runEvents (Config.paramsWith v) (bs.map Event.byte) s = some (t, bs.filterMap f ++ [.done]) ∧
      AtWindowStart t := by
  induction bs generalizing s with
  | nil => rw [List.length_nil] at hlen; omega
  | cons b bs ih =>
    rw [List.length_cons] at hlen
    have hstep := hop { s with out := [] } b hph hlow hlt
    have hcons : (b :: bs).filterMap f = (f b).toList ++ bs.filterMap f := by cases h : f b <;> simp [h]
    rw [hcons]
    obtain rfl | hne := eq_or_ne bs []
    · rw [advance_last (by simp at hlen; simpa using hlen)] at hstep
      exact ⟨_, runEvents_step hstep rfl (by simp), rfl, rfl⟩
    · have hmore : s.pos.toNat + 1 < 188 := by have := List.length_pos_iff.mpr hne; omega
      rw [advance_inside (by simp; omega)] at hstep
      have hsucc : (s.pos + 1).toNat = s.pos.toNat + 1 := pos_succ_toNat (paramsWith_fits v) hmore
      set u : State := setPos (s.pos + 1) { s with out := (f b).toList }
      obtain ⟨t, hrun, ht⟩ := ih (s := u) hph (by simp only [u, setPos_pos]; omega)
        (by simp only [u, setPos_pos]; omega) (by simp only [u, setPos_pos]; omega)
      exact ⟨t, runEvents_step hstep hrun (by simp), ht⟩

/-- The payload's bytes to the end of the window. -/
theorem runEvents_payload {pay : List Byte} (hph : s.phase = .payload) {n : Nat} (hpos : s.pos.toNat = n)
    (hlow : 4 ≤ n) (hlt : n < 188) (hlen : n + pay.length = 188) :
    ∃ t : State, runEvents (Config.paramsWith v) (pay.map Event.byte) s = some (t, pay.map OutEvent.payByte ++ [.done]) ∧
      AtWindowStart t := by
  have hrun := runEvents_region (v := v) (f := some ∘ OutEvent.payByte)
    (fun s b hph hlow hlt => (byteOp_payload hph).trans (paybyteOp_of_context (inRegion_iff.mpr ⟨hph, hlow, hlt⟩)))
    hph (hpos ▸ hlow) (hpos ▸ hlt) (hpos ▸ hlen)
  rwa [List.filterMap_eq_map] at hrun

/-- The skipped bytes to the end of the window. -/
theorem runEvents_skip {skipped : List Byte} (hph : s.phase = .skip) {n : Nat} (hpos : s.pos.toNat = n)
    (hlow : 4 ≤ n) (hlt : n < 188) (hlen : n + skipped.length = 188) :
    ∃ t : State, runEvents (Config.paramsWith v) (skipped.map Event.byte) s = some (t, [.done]) ∧ AtWindowStart t := by
  have hrun := runEvents_region (v := v) (f := fun _ => none)
    (fun s b hph hlow hlt => by
      rw [Option.toList_none, List.append_nil]
      exact (byteOp_skip hph).trans (skipbyteOp_of_context (inRegion_iff.mpr ⟨hph, hlow, hlt⟩)))
    hph (hpos ▸ hlow) (hpos ▸ hlt) (hpos ▸ hlen)
  rwa [List.filterMap_none] at hrun

/-- A step of the field's body before its last byte, and the last one (R196). -/
theorem react_bodyByte (hph : s.phase = .af) (hlow : 5 ≤ s.pos.toNat) (hhigh : s.pos.toNat < 188) {r : Byte}
    (hr : s.afRem = some r) (hone : 1 ≤ r.toNat) (hmax : r.toNat ≤ 183) (b : Byte) :
    react (Config.paramsWith v) (.byte b) s = .next (bodyByte (Config.paramsWith v) b r s) :=
  (byteOp_af hph).trans (afbyteOp_of_context (inRegion_iff.mpr ⟨hph, hlow, hhigh⟩) hr hone hmax)

/-- Body bytes short of the field's end are passed, and the rest of the field is awaited. -/
theorem runEvents_fieldFront {front : List Byte} {r : Byte} (hph : s.phase = .af) (hlow : 5 ≤ s.pos.toNat)
    (hr : s.afRem = some r) (hmax : r.toNat ≤ 183) (hend : s.pos.toNat + r.toNat ≤ 188)
    (hlen : front.length < r.toNat) : ∃ (t : State) (r' : Byte),
    runEvents (Config.paramsWith v) (front.map Event.byte) s = some (t, front.map OutEvent.afByte) ∧ t.phase = .af ∧
      t.pos.toNat = s.pos.toNat + front.length ∧ t.afRem = some r' ∧ r'.toNat + front.length = r.toNat := by
  induction front generalizing s r with
  | nil => exact ⟨s, r, rfl, hph, rfl, hr, rfl⟩
  | cons b front ih =>
    rw [List.length_cons] at hlen
    have hstep := react_bodyByte (v := v) (s := { s with out := [] }) hph hlow (by simp only; omega) hr (by omega) hmax b
    have hnotLast : r ≠ 1 := by rintro rfl; simp at hlen
    rw [bodyByte_inside (by simp; omega), if_neg hnotLast] at hstep
    have hsucc : (s.pos + 1).toNat = s.pos.toNat + 1 := pos_succ_toNat (paramsWith_fits v) (by rw [paramsWith_pktSize]; omega)
    have hpred : (r - 1).toNat = r.toNat - 1 := by bv_omega
    obtain ⟨t, r', hrun, hph', hpos', hr', hlen'⟩ := ih (s := setPos (s.pos + 1) (setPhase s.phase
      (setAfRem (r - 1) (emit (.afByte b) { s with out := [] })))) (r := r - 1) hph (by simp only [setPos_pos]; omega) rfl
      (by omega) (by simp only [setPos_pos]; omega) (by omega)
    refine ⟨t, r', runEvents_step hstep hrun rfl, hph', ?_, hr', ?_⟩
    · simp only [setPos_pos] at hpos'
      rw [List.length_cons]
      omega
    · rw [List.length_cons]
      omega

/-- The whole body of a field: at the window's end it is followed by `Done`, else the payload is awaited. -/
theorem runEvents_field {body : List Byte} {r : Byte} (hph : s.phase = .af) (hlow : 5 ≤ s.pos.toNat)
    (hr : s.afRem = some r) (hmax : r.toNat ≤ 183) (hone : 1 ≤ r.toNat) (hlen : body.length = r.toNat) :
    (s.pos.toNat + r.toNat = 188 → ∃ t : State,
      runEvents (Config.paramsWith v) (body.map Event.byte) s = some (t, body.map OutEvent.afByte ++ [.done]) ∧
        AtWindowStart t) ∧
    (s.pos.toNat + r.toNat < 188 → ∃ t : State,
      runEvents (Config.paramsWith v) (body.map Event.byte) s = some (t, body.map OutEvent.afByte) ∧
        t.phase = .payload ∧ t.pos.toNat = s.pos.toNat + r.toNat) := by
  obtain rfl | ⟨front, b, rfl⟩ := body.eq_nil_or_concat'
  · rw [List.length_nil] at hlen; omega
  rw [List.length_append, List.length_singleton] at hlen
  rw [List.map_append, List.map_append]
  have hfront (hend : s.pos.toNat + r.toNat ≤ 188) : ∃ (u : State),
      runEvents (Config.paramsWith v) (front.map Event.byte) s = some (u, front.map OutEvent.afByte) ∧
        u.pos.toNat = s.pos.toNat + front.length ∧
        react (Config.paramsWith v) (.byte b) { u with out := [] } =
          .next (bodyByte (Config.paramsWith v) b 1 { u with out := [] }) := by
    obtain ⟨u, r', hrun, hph', hpos', hr', hlen'⟩ := runEvents_fieldFront (v := v) (front := front) hph hlow hr hmax hend
      (by omega)
    obtain rfl : r' = 1 := BitVec.eq_of_toNat_eq (by simp; omega)
    exact ⟨u, hrun, hpos', react_bodyByte (s := { u with out := [] }) hph' (by simp only; omega) (by simp only; omega) hr'
      (by decide) (by decide) b⟩
  refine ⟨fun hend => ?_, fun hend => ?_⟩
  · obtain ⟨u, hrun, hpos, hstep⟩ := hfront hend.le
    rw [bodyByte_last (by simp; omega)] at hstep
    rw [List.append_assoc]
    exact ⟨_, runEvents_trans hrun (runEvents_step hstep rfl rfl), rfl, rfl⟩
  · obtain ⟨u, hrun, hpos, hstep⟩ := hfront hend.le
    rw [bodyByte_inside (by simp; omega), if_pos rfl] at hstep
    refine ⟨_, runEvents_trans hrun (runEvents_step hstep rfl rfl), rfl, ?_⟩
    have hsucc : (u.pos + 1).toNat = u.pos.toNat + 1 := pos_succ_toNat (paramsWith_fits v) (by rw [paramsWith_pktSize]; omega)
    exact hsucc.trans (by omega)

/-- The length byte of a window that tiles is accepted (R194). -/
theorem react_lengthAccepted (hph : s.phase = .aflen) (hpos : s.pos = 4) {hasPayload : Bool}
    (hview : viewHasPayload s = some hasPayload) {len : Byte} (hlen : len.toNat ≤ 183)
    (htiles : hasPayload = true ∨ len.toNat = 183) :
    react (Config.paramsWith v) (.byte len) s =
      .next (setPos 5 (setPhase (if len = 0 then .payload else .af) (emit (.afLen len) (setAfRem len (setAfLen len s))))) :=
  (byteOp_aflen hph).trans ((aflenOp_accepted (atLengthByte_of_pos v hph hpos) hlen hview htiles).trans
    (congrArg Host.Outcome.next (lengthAccepted_of_pos (by simp) hpos)))

/-- From the length byte to the end of the window: the length, the body, the payload, `Done`. -/
theorem runEvents_lengthOn (hph : s.phase = .aflen) (hpos : s.pos = 4) {hasPayload : Bool}
    (hview : viewHasPayload s = some hasPayload) {len : Byte} {body pay : List Byte}
    (hpay : hasPayload = true ∨ pay = []) (hbody : body.length = len.toNat) (hsum : body.length + pay.length = 183) :
    ∃ t : State, runEvents (Config.paramsWith v) ((len :: (body ++ pay)).map Event.byte) s =
      some (t, .afLen len :: (body.map OutEvent.afByte ++ pay.map OutEvent.payByte) ++ [.done]) ∧ AtWindowStart t := by
  have htiles : hasPayload = true ∨ len.toNat = 183 := hpay.imp_right fun h => by simp [h] at hsum; omega
  have hstep := react_lengthAccepted (v := v) (s := { s with out := [] }) hph hpos hview (by omega) htiles
  by_cases hzero : len = 0
  · subst hzero
    obtain rfl : body = [] := List.eq_nil_of_length_eq_zero hbody
    rw [if_pos rfl] at hstep
    obtain ⟨t, hrun, ht⟩ := runEvents_payload (v := v) (pay := pay) (n := 5) (s := setPos 5 (setPhase .payload
      (emit (.afLen 0) (setAfRem 0 (setAfLen 0 { s with out := [] }))))) rfl rfl (by decide) (by decide)
      (by rw [List.length_nil] at hsum; omega)
    exact ⟨t, runEvents_step hstep hrun (by simp), ht⟩
  · have hone : 1 ≤ len.toNat := Nat.one_le_iff_ne_zero.mpr fun h => hzero (BitVec.eq_of_toNat_eq h)
    rw [if_neg hzero] at hstep
    set u := setPos 5 (setPhase .af (emit (.afLen len) (setAfRem len (setAfLen len { s with out := [] }))))
    have hu : u.pos.toNat = 5 := rfl
    obtain ⟨hfull, hshort⟩ := runEvents_field (v := v) (s := u) (body := body) (r := len) rfl hu.ge rfl (by omega) hone hbody
    obtain rfl | hne := eq_or_ne pay []
    · rw [List.length_nil] at hsum
      obtain ⟨t, hrun, ht⟩ := hfull (by omega)
      exact ⟨t, runEvents_step hstep (by rw [List.append_nil]; exact hrun) (by simp [u]), ht⟩
    · have hmore := List.length_pos_iff.mpr hne
      obtain ⟨w, hfield, hph', hpos'⟩ := hshort (by omega)
      obtain ⟨t, hpayload, ht⟩ := runEvents_payload (v := v) (pay := pay) hph' hpos' (by omega) (by omega) (by omega)
      have hrun := runEvents_trans hfield hpayload
      rw [← List.map_append] at hrun
      exact ⟨t, runEvents_step hstep hrun (by simp [u]), ht⟩

/-- A payload-only window from its start (S1). -/
theorem runEvents_payloadOnly (hs : AtWindowStart s) {b1 b2 b3 : Byte} {pay : List Byte}
    (hafc : b3.extractLsb' 4 2 = 0b01) (hlen : pay.length = 184) : ∃ t : State,
    runEvents (Config.paramsWith v) ((0x47 :: b1 :: b2 :: b3 :: pay).map Event.byte) s =
      some (t, .hdr (record (Config.paramsWith v) (joinBytes 0x47 b1 b2 b3)) :: pay.map OutEvent.payByte ++ [.done]) ∧
      AtWindowStart t := by
  obtain ⟨u, hheader, -, hpayload, -⟩ := runEvents_header (v := v) hs b1 b2 b3
  obtain ⟨hph, hpos⟩ := hpayload hafc
  obtain ⟨t, hrun, ht⟩ := runEvents_payload (v := v) (pay := pay) hph (n := 4) (by rw [hpos]; rfl) le_rfl
    (by decide) (by omega)
  rw [hafc, if_neg fun h => absurd h.1 (by decide)] at hheader
  exact ⟨t, runEvents_trans hheader hrun, ht⟩

/-! ### The notation (30_encoding.md section 5) -/

/-- Byte 0 of the header word of a `HEADER` line is the sync byte. -/
theorem HeaderFields.hdrByte0_word (f : HeaderFields) : hdrByte f.word 0 = 0x47 := hdrSync_pack ..

/-- The events of a `HEADER` line are the bytes of its word, the sync byte first. -/
theorem HeaderFields.splitBytes_word (f : HeaderFields) :
    splitBytes f.word = [0x47, hdrByte f.word 1, hdrByte f.word 2, hdrByte f.word 3] := by
  rw [splitBytes, f.hdrByte0_word]

theorem HeaderFields.join_word (f : HeaderFields) :
    joinBytes 0x47 (hdrByte f.word 1) (hdrByte f.word 2) (hdrByte f.word 3) = f.word := by
  have hjoin := join_hdrByte f.word
  rwa [f.hdrByte0_word] at hjoin

theorem HeaderFields.afc_word (f : HeaderFields) : (hdrByte f.word 3).extractLsb' 4 2 = f.afc := by
  rw [← hdrAfc_eq_hdrByte3, word, hdrAfc_pack]

/-- The header fields a `NULLPKT` line stands for (R112). -/
def HeaderFields.stuffing (cc : BitVec 4) : HeaderFields := { pid := Config.params.pidNull, afc := 0b01, cc := cc }

theorem Line.events_nullpkt (cc : BitVec 4) : (Line.nullpkt cc).events =
    (0x47 :: hdrByte (HeaderFields.stuffing cc).word 1 :: hdrByte (HeaderFields.stuffing cc).word 2 ::
      hdrByte (HeaderFields.stuffing cc).word 3 :: List.replicate 184 0xFF).map Event.byte := by
  have hbytes : (Line.nullpkt cc).streamBytes = splitBytes (HeaderFields.stuffing cc).word ++ List.replicate 184 0xFF :=
    rfl
  rw [Line.events, hbytes, HeaderFields.splitBytes_word]
  · rfl
  · nofun

theorem HeaderFields.record_stuffing (cc : BitVec 4) : record (Config.paramsWith v) (HeaderFields.stuffing cc).word =
    { tei := 0, pusi := 0, prio := 0, pid := 0x1FFF, tsc := 0, afc := 0b01, cc := cc, hasAf := false,
      hasPayload := true, pidClass := .stuff } := by
  have hclass : pidClass (Config.paramsWith v) Config.params.pidNull = .stuff := by cases v <;> rfl
  rw [HeaderFields.word, record_pack]
  simp only [HeaderFields.stuffing, hclass]
  rfl

end windows

end Sys2Proof.Machine

namespace Sys2Proof

open Machine

/-- Settles O54: the header goes on to the payload, which ends the window. -/
theorem payloadOnlyWindowOutputs : Obligations.PayloadOnlyWindowOutputs := by
  unfold Obligations.PayloadOnlyWindowOutputs
  exact fun v s b1 b2 b3 pay hs hafc hlen => runEvents_payloadOnly hs hafc hlen

/-- Settles O55: the header goes on to the length byte, and that to the end of the window. -/
theorem windowWithAdaptationFieldOutputs : Obligations.WindowWithAdaptationFieldOutputs := by
  unfold Obligations.WindowWithAdaptationFieldOutputs
  intro v s b1 b2 b3 len body pay hs hafc hbody hsum
  obtain ⟨u, hheader, hview, -, hfield, -⟩ := runEvents_header (v := v) hs b1 b2 b3
  have hnotNeither : b3.extractLsb' 4 2 ≠ 0b00 := by
    obtain h | ⟨h, -⟩ := hafc <;> rw [h] <;> decide
  rw [if_neg fun h => hnotNeither h.1] at hheader
  obtain ⟨hph, hpos⟩ := hfield (hafc.symm.imp_left fun h => h.1)
  have hpayload : viewHasPayload u = some ((b3.extractLsb' 4 2).getLsbD 0) := by
    rw [viewHasPayload, hview, Option.map_some, hdrHasPayload_afc, hdrAfc_eq_hdrByte3, hdrByte_join3]
  have hpay : (b3.extractLsb' 4 2).getLsbD 0 = true ∨ pay = [] :=
    hafc.imp (fun h => by rw [h]; rfl) fun h => h.2
  obtain ⟨t, hrun, ht⟩ := runEvents_lengthOn (v := v) hph hpos hpayload hpay hbody hsum
  exact ⟨t, runEvents_trans hheader hrun, ht⟩

/-- Settles O56: with the parameter false the header goes on to `SKIP`, which ends the window. -/
theorem skippedWindowOutputs : Obligations.SkippedWindowOutputs := by
  unfold Obligations.SkippedWindowOutputs
  intro s b1 b2 b3 skipped hs hafc hlen
  obtain ⟨u, hheader, -, -, -, hskip⟩ := runEvents_header (v := false) hs b1 b2 b3
  obtain ⟨hph, hpos⟩ := hskip hafc rfl
  obtain ⟨t, hrun, ht⟩ := runEvents_skip (v := false) (skipped := skipped) hph (n := 4) (by rw [hpos]; rfl)
    le_rfl (by decide) (by omega)
  rw [if_neg fun h => nomatch h.2] at hheader
  exact ⟨t, runEvents_trans hheader hrun, ht⟩

/-- Settles O59: the bytes of a line's word join to the word, whose record is the line's fields. -/
theorem headerLinesAreReadBack : Obligations.HeaderLinesAreReadBack := by
  unfold Obligations.HeaderLinesAreReadBack
  refine ⟨fun v s f hs => ?_, fun v s cc hs => ?_⟩
  · obtain ⟨t, hheader, -⟩ := runEvents_header (v := v) hs (hdrByte f.word 1) (hdrByte f.word 2) (hdrByte f.word 3)
    rw [f.join_word, ← f.splitBytes_word, HeaderFields.word, record_pack] at hheader
    refine ⟨t, _, hheader, fun e he => ?_⟩
    split at he
    · exact List.mem_singleton.mp he
    · cases he
  · obtain ⟨t, hrun, ht⟩ := runEvents_payloadOnly (v := v) hs (pay := List.replicate 184 0xFF)
      (HeaderFields.stuffing cc).afc_word List.length_replicate
    rw [← Line.events_nullpkt, HeaderFields.join_word, HeaderFields.record_stuffing, List.map_replicate] at hrun
    exact ⟨t, hrun, ht⟩

end Sys2Proof

namespace Sys2Proof

/-! ### The event vector (R91, R92) -/

/-- The event of the five bits of a vector: reset over clear over a beat, and failure over end over data. -/
theorem decodeEvt_ofBools (rst clear xfer err eos : Bool) (b : Byte) :
    decodeEvt (BitVec.ofBool rst ++ BitVec.ofBool clear ++ BitVec.ofBool xfer ++ BitVec.ofBool err ++ BitVec.ofBool eos)
        b =
      if rst then .reset else if clear then .clear
      else if xfer then (if err then .srcerr else if eos then .eos else .byte b) else .nop := by
  cases rst <;> cases clear <;> cases xfer <;> cases err <;> cases eos <;> rfl

/-- A vector is its five bits. -/
theorem evtVec_eq_ofBools : ∀ e : EvtVec,
    e = BitVec.ofBool (e.getLsbD 4) ++ BitVec.ofBool (e.getLsbD 3) ++ BitVec.ofBool (e.getLsbD 2) ++
      BitVec.ofBool (e.getLsbD 1) ++ BitVec.ofBool (e.getLsbD 0) := by decide

/-! ### Decoding gives a row and drops no bit -/

section decode
variable {i : Instr} {b : Byte} {h : HdrWord}

/-- Row `i` of table `t` is read from the bytes `bs`: it is well formed, the table holds it, the bytes encode it. -/
structure ReadsRow (t : Table) (bs : List Byte) (i : Instr) : Prop where
  wellFormed : i.WellFormed
  holds : t.holds i = true
  encode : encode i = bs

/-- The context table of R94. -/
theorem readsRow_of_decodeB8 {ph : Phase} {pos : Byte} (hi : decodeB8 Config.params ph pos b = .ok i) :
    ReadsRow (.b8 ph pos) [b] i := by
  unfold decodeB8 at hi
  split at hi
  · split at hi
    next hpos =>
      subst hpos
      by_cases hb : b = Config.params.syncByte
      · rw [if_pos hb] at hi
        cases hi
        exact ⟨rfl, rfl, by rw [hb]; rfl⟩
      · rw [if_neg hb] at hi
        cases hi
        exact ⟨bne_iff_ne.mpr hb, rfl, rfl⟩
    · cases hi
  · split at hi
    next hpos =>
      subst hpos
      cases hi
      exact ⟨rfl, rfl, congrArg (fun b => [b]) (pack_byte1 b)⟩
    split at hi
    next hpos =>
      subst hpos
      cases hi
      exact ⟨rfl, rfl, rfl⟩
    split at hi
    next hpos =>
      subst hpos
      cases hi
      exact ⟨rfl, rfl, congrArg (fun b => [b]) (pack_byte3 b)⟩
    · cases hi
  · split at hi
    next hpos =>
      cases hi
      exact ⟨rfl, beq_iff_eq.mpr hpos, rfl⟩
    · cases hi
  · split at hi
    next hpos =>
      cases hi
      exact ⟨rfl, decide_eq_true hpos, rfl⟩
    · cases hi
  · split at hi
    next hpos =>
      cases hi
      exact ⟨rfl, decide_eq_true hpos, rfl⟩
    · cases hi
  · split at hi
    next hpos =>
      cases hi
      exact ⟨rfl, decide_eq_true hpos, rfl⟩
    · cases hi
  · cases hi

/-- The header classes of R98. -/
theorem readsRow_of_decodeClass (hi : decodeClass Config.params h = .ok i) : ReadsRow .h32Class (splitBytes h) i := by
  unfold decodeClass at hi
  split at hi
  next hsync =>
    have hpack := pack_fields h
    rw [hsync] at hpack
    split at hi
    next hafc => cases hi; exact ⟨rfl, rfl, congrArg splitBytes (hafc ▸ hpack)⟩
    split at hi
    next hafc => cases hi; exact ⟨rfl, rfl, congrArg splitBytes (hafc ▸ hpack)⟩
    split at hi
    next hafc => cases hi; exact ⟨rfl, rfl, congrArg splitBytes (hafc ▸ hpack)⟩
    next h01 h10 h11 =>
      have hafc : hdrAfc h = 0b00 := (Machine.afc_cases (hdrAfc h)).resolve_right (by simp only [h01, h10, h11]; simp)
      cases hi
      exact ⟨rfl, rfl, congrArg splitBytes (hafc ▸ hpack)⟩
  · cases hi

/-- The PID classes of R103. -/
theorem readsRow_decodePid (h : HdrWord) : ReadsRow .h32Pid (splitBytes h) (decodePid Config.params h) := by
  have hpack := pack_fields h
  unfold decodePid
  split
  next hpid => exact ⟨rfl, rfl, congrArg splitBytes (hpid ▸ hpack)⟩
  split
  next hpid => exact ⟨rfl, rfl, congrArg splitBytes (hpid ▸ hpack)⟩
  next hpat hnull =>
    exact ⟨Bool.and_eq_true_iff.mpr ⟨bne_iff_ne.mpr hpat, bne_iff_ne.mpr hnull⟩, rfl, congrArg splitBytes hpack⟩

/-- The length cases of R99. -/
theorem readsRow_decodeL8 (hasPayload : Bool) (len : Byte) :
    ReadsRow (.l8 hasPayload) [len] (decodeL8 Config.params hasPayload len) := by
  unfold decodeL8
  split
  next hover => exact ⟨decide_eq_true hover, rfl, rfl⟩
  split
  next hshort =>
    obtain ⟨rfl, hlt⟩ := hshort
    exact ⟨decide_eq_true hlt, rfl, rfl⟩
  next hfits haccepted =>
    have hle := Nat.le_of_not_lt hfits
    refine ⟨decide_eq_true hle, ?_, rfl⟩
    cases hasPayload with
    | true => rfl
    | false => exact beq_iff_eq.mpr (le_antisymm hle (Nat.le_of_not_lt fun hlt => haccepted ⟨rfl, hlt⟩))

end decode

/-! ### Encoding and decoding, table by table -/

section roundTrip
variable {i : Instr} {rest : List Byte}

theorem decode_b8_ok {ph : Phase} {pos b : Byte} (h : decodeB8 Config.params ph pos b = .ok i) (rest : List Byte) :
    decode (.b8 ph pos) (b :: rest) = .ok (i, rest) := by
  rw [decode, decodeByteWith, h]
  rfl

theorem decode_h32Class_ok {w : HdrWord} (h : decodeClass Config.params w = .ok i) (rest : List Byte) :
    decode .h32Class (splitBytes w ++ rest) = .ok (i, rest) := by
  have hread : decode .h32Class (splitBytes w ++ rest) =
      (decodeClass Config.params (joinBytes (hdrByte w 0) (hdrByte w 1) (hdrByte w 2) (hdrByte w 3))).map (·, rest) := rfl
  rw [hread, join_hdrByte, h]
  rfl

theorem decode_h32Pid (w : HdrWord) (rest : List Byte) :
    decode .h32Pid (splitBytes w ++ rest) = .ok (decodePid Config.params w, rest) := by
  have hread : decode .h32Pid (splitBytes w ++ rest) =
      .ok (decodePid Config.params (joinBytes (hdrByte w 0) (hdrByte w 1) (hdrByte w 2) (hdrByte w 3)), rest) := rfl
  rw [hread, join_hdrByte]

theorem decode_l8 (hasPayload : Bool) (len : Byte) (rest : List Byte) :
    decode (.l8 hasPayload) (len :: rest) = .ok (decodeL8 Config.params hasPayload len, rest) := rfl

theorem decodeHb1_pack (tei pusi prio : Bit) (pidHi : BitVec 5) :
    decodeHb1 (packByte1 tei pusi prio pidHi) = .hb1 tei pusi prio pidHi := by
  obtain ⟨htei, hpusi, hprio, hpid⟩ := byte1_fields tei pusi prio pidHi
  rw [decodeHb1, htei, hpusi, hprio, hpid]

theorem decodeHb3_pack (tsc afc : BitVec 2) (cc : BitVec 4) : decodeHb3 (packByte3 tsc afc cc) = .hb3 tsc afc cc := by
  obtain ⟨htsc, hafc, hcc⟩ := byte3_fields tsc afc cc
  rw [decodeHb3, htsc, hafc, hcc]

theorem decode_encode_evt (hi : Table.evt.holds i = true) : decode .evt (encode i ++ rest) = .ok (i, rest) := by
  cases i with
  | reset | clear | srcerr | eos | byte | nop => rfl
  | _ => cases hi

theorem decode_encode_b8 {ph : Phase} {pos : Byte} (hwf : i.WellFormed) (hi : (Table.b8 ph pos).holds i = true) :
    decode (.b8 ph pos) (encode i ++ rest) = .ok (i, rest) := by
  cases ph with
  | idle =>
    cases i with
    | sync => obtain rfl := beq_iff_eq.mp hi; rfl
    | badsync b =>
      obtain rfl := beq_iff_eq.mp hi
      refine decode_b8_ok ?_ rest
      exact congrArg Except.ok (if_neg (bne_iff_ne.mp hwf))
    | _ => cases hi
  | hdr =>
    cases i with
    | hb1 tei pusi prio pidHi =>
      obtain rfl := beq_iff_eq.mp hi
      refine decode_b8_ok ?_ rest
      exact congrArg Except.ok (decodeHb1_pack ..)
    | hb2 pidLo => obtain rfl := beq_iff_eq.mp hi; rfl
    | hb3 tsc afc cc =>
      obtain rfl := beq_iff_eq.mp hi
      refine decode_b8_ok ?_ rest
      exact congrArg Except.ok (decodeHb3_pack ..)
    | _ => cases hi
  | aflen =>
    cases i with
    | aflen len =>
      refine decode_b8_ok ?_ rest
      exact if_pos (beq_iff_eq.mp hi)
    | _ => cases hi
  | af =>
    cases i with
    | afbyte b =>
      refine decode_b8_ok ?_ rest
      exact if_pos (of_decide_eq_true hi)
    | _ => cases hi
  | payload =>
    cases i with
    | paybyte b =>
      refine decode_b8_ok ?_ rest
      exact if_pos (of_decide_eq_true hi)
    | _ => cases hi
  | skip =>
    cases i with
    | skipbyte b =>
      refine decode_b8_ok ?_ rest
      exact if_pos (of_decide_eq_true hi)
    | _ => cases hi
  | err => cases i <;> cases hi

/-- The class a packed header decodes to, by its `afc`. -/
theorem decodeClass_pack (tei pusi prio : Bit) (pid : Pid) (tsc afc : BitVec 2) (cc : BitVec 4) :
    decodeClass Config.params (packHeader Config.params.syncByte tei pusi prio pid tsc afc cc) =
      .ok (if afc = 0b01 then .hdrAfc01 tei pusi prio pid tsc cc else if afc = 0b10 then .hdrAfc10 tei pusi prio pid tsc cc
        else if afc = 0b11 then .hdrAfc11 tei pusi prio pid tsc cc else .hdrAfc00 tei pusi prio pid tsc cc) := by
  rw [decodeClass, hdrSync_pack, if_pos rfl, hdrTei_pack, hdrPusi_pack, hdrPrio_pack, hdrPid_pack, hdrTsc_pack,
    hdrAfc_pack, hdrCc_pack]

/-- The class of PID a packed header decodes to. -/
theorem decodePid_pack (sync : Byte) (tei pusi prio : Bit) (pid : Pid) (tsc afc : BitVec 2) (cc : BitVec 4) :
    decodePid Config.params (packHeader sync tei pusi prio pid tsc afc cc) =
      if pid = Config.params.pidPat then .pidcPat sync tei pusi prio tsc afc cc
      else if pid = Config.params.pidNull then .pidcStuff sync tei pusi prio tsc afc cc
      else .pidcRaw sync tei pusi prio pid tsc afc cc := by
  rw [decodePid, hdrSync_pack, hdrTei_pack, hdrPusi_pack, hdrPrio_pack, hdrPid_pack, hdrTsc_pack, hdrAfc_pack,
    hdrCc_pack]

theorem decode_encode_h32Class (hi : Table.h32Class.holds i = true) :
    decode .h32Class (encode i ++ rest) = .ok (i, rest) := by
  cases i with
  | hdrAfc00 | hdrAfc01 | hdrAfc10 | hdrAfc11 => exact decode_h32Class_ok (decodeClass_pack ..) rest
  | _ => cases hi

theorem decode_encode_h32Pid (hwf : i.WellFormed) (hi : Table.h32Pid.holds i = true) :
    decode .h32Pid (encode i ++ rest) = .ok (i, rest) := by
  cases i with
  | pidcPat | pidcStuff =>
    rw [encode, decode_h32Pid, decodePid_pack]
    rfl
  | pidcRaw sync tei pusi prio pid tsc afc cc =>
    obtain ⟨hpat, hnull⟩ := Bool.and_eq_true_iff.mp hwf
    rw [encode, decode_h32Pid, decodePid_pack, if_neg (bne_iff_ne.mp hpat), if_neg (bne_iff_ne.mp hnull)]
  | _ => cases hi

theorem decode_encode_l8 {hasPayload : Bool} (hwf : i.WellFormed) (hi : (Table.l8 hasPayload).holds i = true) :
    decode (.l8 hasPayload) (encode i ++ rest) = .ok (i, rest) := by
  cases i with
  | aflenOverrun len =>
    have hlt : Config.params.afLenMax < len.toNat := of_decide_eq_true hwf
    rw [encode, List.singleton_append, decode_l8, decodeL8, if_pos hlt]
  | aflenResidual len =>
    have hlt : len.toNat < Config.params.afLenMax := of_decide_eq_true hwf
    cases hasPayload with
    | true => cases hi
    | false => rw [encode, List.singleton_append, decode_l8, decodeL8, if_neg hlt.not_gt, if_pos ⟨rfl, hlt⟩]
  | aflenOk len =>
    have hle : len.toNat ≤ Config.params.afLenMax := of_decide_eq_true hwf
    have hnotShort : ¬(hasPayload = false ∧ len.toNat < Config.params.afLenMax) := by
      rintro ⟨rfl, hlt⟩
      exact hlt.ne (beq_iff_eq.mp hi)
    rw [encode, List.singleton_append, decode_l8, decodeL8, if_neg hle.not_gt, if_neg hnotShort]
  | _ => cases hi

end roundTrip

/-! ### What a table reads -/

section reads
variable {i : Instr} {rest bs : List Byte}

theorem decodeByteWith_eq_ok {f : Byte → Except Reject Instr} (h : decodeByteWith f bs = .ok (i, rest)) :
    ∃ b, f b = .ok i ∧ bs = b :: rest := by
  cases bs with
  | nil => cases h
  | cons b bs =>
    rw [decodeByteWith] at h
    cases hf : f b with
    | ok j => rw [hf] at h; cases h; exact ⟨b, hf, rfl⟩
    | error r => rw [hf] at h; cases h

theorem decodeWordWith_eq_ok {f : HdrWord → Except Reject Instr} (h : decodeWordWith f bs = .ok (i, rest)) :
    ∃ w, f w = .ok i ∧ bs = splitBytes w ++ rest := by
  unfold decodeWordWith at h
  split at h
  next b0 b1 b2 b3 bs =>
    cases hf : f (joinBytes b0 b1 b2 b3) with
    | ok j =>
      rw [hf] at h
      cases h
      refine ⟨joinBytes b0 b1 b2 b3, hf, ?_⟩
      rw [splitBytes, hdrByte_join0, hdrByte_join1, hdrByte_join2, hdrByte_join3]
      rfl
    | error r => rw [hf] at h; cases h
  · cases h

/-- Format `EVT` reads one byte, and the data byte of a `BYTE` event. -/
theorem decodeEvtBytes_eq_ok (h : decodeEvtBytes bs = .ok (i, rest)) :
    i.WellFormed ∧ Table.evt.holds i = true ∧ bs.length = (encode i).length + rest.length := by
  unfold decodeEvtBytes at h
  split at h
  · cases h
  next e bs =>
    split at h
    · cases h
    split at h
    · split at h
      · cases h
      · cases h
        exact ⟨rfl, rfl, by simp [encode]; omega⟩
    next hnotByte =>
      cases h
      generalize decodeEvt (e.extractLsb' 0 5) 0 = ev at hnotByte ⊢
      cases ev with
      | byte b => exact absurd rfl (hnotByte b)
      | reset | clear | srcerr | eos | nop => exact ⟨rfl, rfl, Nat.add_comm ..⟩

end reads

/-- Settles O2: table by table; a row the table does not hold has no word in it. -/
theorem decodeOfEncodeIsTheOperation : Obligations.DecodeOfEncodeIsTheOperation := by
  unfold Obligations.DecodeOfEncodeIsTheOperation
  intro i t rest hwf hi
  cases t with
  | evt => exact decode_encode_evt hi
  | b8 ph pos => exact decode_encode_b8 hwf hi
  | h32Class => exact decode_encode_h32Class hi
  | h32Pid => exact decode_encode_h32Pid hwf hi
  | l8 hasPayload => exact decode_encode_l8 hwf hi

/-- Settles O3: format `EVT` by its byte; in any other table the row read encodes to the bytes read. -/
theorem decodeGivesARowOfItsTable : Obligations.DecodeGivesARowOfItsTable := by
  unfold Obligations.DecodeGivesARowOfItsTable
  intro t bs rest i hdecode
  have hreads {bs' : List Byte} (hrow : ReadsRow t bs' i) (hbs : bs = bs' ++ rest) :
      i.WellFormed ∧ t.holds i = true ∧ bs.length = (encode i).length + rest.length ∧ (t ≠ .evt → bs = encode i ++ rest) := by
    rw [hbs, hrow.encode]
    exact ⟨hrow.wellFormed, hrow.holds, List.length_append, fun _ => rfl⟩
  cases t with
  | evt =>
    obtain ⟨hwf, hholds, hlen⟩ := decodeEvtBytes_eq_ok hdecode
    exact ⟨hwf, hholds, hlen, fun h => absurd rfl h⟩
  | b8 ph pos =>
    obtain ⟨b, hb, hbs⟩ := decodeByteWith_eq_ok hdecode
    exact hreads (readsRow_of_decodeB8 hb) hbs
  | h32Class =>
    obtain ⟨w, hw, hbs⟩ := decodeWordWith_eq_ok hdecode
    exact hreads (readsRow_of_decodeClass hw) hbs
  | h32Pid =>
    obtain ⟨w, hw, hbs⟩ := decodeWordWith_eq_ok (f := fun h => .ok (decodePid Config.params h)) hdecode
    cases hw
    exact hreads (readsRow_decodePid w) hbs
  | l8 hasPayload =>
    obtain ⟨b, hb, hbs⟩ := decodeByteWith_eq_ok (f := fun b => .ok (decodeL8 Config.params hasPayload b)) hdecode
    cases hb
    exact hreads (readsRow_decodeL8 hasPayload b) hbs

/-- Settles O1: the five bits of the vector choose the row. -/
theorem exactlyOneEventRowMatches : Obligations.ExactlyOneEventRowMatches := by
  unfold Obligations.ExactlyOneEventRowMatches
  intro e b
  rw [evtVec_eq_ofBools e]
  generalize e.getLsbD 4 = rst, e.getLsbD 3 = clear, e.getLsbD 2 = xfer, e.getLsbD 1 = err, e.getLsbD 0 = eos
  cases rst <;> cases clear <;> cases xfer <;> cases err <;> cases eos <;> simp [decodeEvt]

/-- Settles O4: each word is evaluated. -/
theorem wordsOfTheSpecDecode : Obligations.WordsOfTheSpecDecode := by
  unfold Obligations.WordsOfTheSpecDecode
  refine ⟨?_, ?_, ?_, ?_, ?_, ?_, ?_, ?_, ?_, ?_, ?_, ?_, ?_, ?_⟩ <;> decide

end Sys2Proof

namespace Sys2Proof

/-! ### Header fields on the single bytes (R95) -/

/-- A slice of a window byte is a slice of the header word. -/
theorem extractLsb'_hdrByte (h : HdrWord) (k start len : Nat) (hlen : start + len ≤ 8) :
    (hdrByte h k).extractLsb' start len = h.extractLsb' (24 - 8 * k + start) len := by
  ext i hi
  simp [hdrByte, show start + i < 8 by omega, Nat.add_assoc]

/-- A slice of a byte by shift and mask. -/
theorem extractLsb'_toNat_eq_and (b : Byte) (start len : Nat) :
    (b.extractLsb' start len).toNat = (b.toNat >>> start) &&& (2 ^ len - 1) := by
  rw [BitVec.extractLsb'_toNat, Nat.and_two_pow_sub_one_eq_mod]

/-- A slice of the header word that lies in byte `k` by shift and mask. -/
theorem toNat_extractLsb'_of_byte {h : HdrWord} {k : Nat} {b : Byte} (hb : hdrByte h k = b) (start len : Nat)
    (hlen : start + len ≤ 8) :
    (h.extractLsb' (24 - 8 * k + start) len).toNat = (b.toNat >>> start) &&& (2 ^ len - 1) := by
  rw [← extractLsb'_hdrByte h k start len hlen, hb, extractLsb'_toNat_eq_and]

/-- Settles O6: each field is a slice of one byte, but for the PID, which joins two. -/
theorem headerFieldsByMaskAndShift : Obligations.HeaderFieldsByMaskAndShift := by
  unfold Obligations.HeaderFieldsByMaskAndShift
  intro b0 b1 b2 b3
  have hone := hdrByte_join1 b0 b1 b2 b3
  have hthree := hdrByte_join3 b0 b1 b2 b3
  refine ⟨congrArg BitVec.toNat (hdrByte_join0 b0 b1 b2 b3), toNat_extractLsb'_of_byte hone 7 1 (by decide),
    toNat_extractLsb'_of_byte hone 6 1 (by decide), toNat_extractLsb'_of_byte hone 5 1 (by decide), ?pid,
    toNat_extractLsb'_of_byte hthree 6 2 (by decide), toNat_extractLsb'_of_byte hthree 4 2 (by decide),
    toNat_extractLsb'_of_byte hthree 0 4 (by decide)⟩
  case pid =>
    rw [hdrPid_join, BitVec.toNat_append, extractLsb'_toNat_eq_and, Nat.shiftRight_zero]
    rfl

end Sys2Proof

namespace Sys2Proof.Machine

/-! ### The packing of the status registers (D19) -/

/-- The fields of a packed record, from bit 0 up. -/
theorem packRecord_fields (r : HdrRecord) :
    (packRecord r).extractLsb' 0 1 = r.tei ∧ (packRecord r).extractLsb' 1 1 = r.pusi ∧
      (packRecord r).extractLsb' 2 1 = r.prio ∧ (packRecord r).extractLsb' 3 13 = r.pid ∧
      (packRecord r).extractLsb' 16 2 = r.tsc ∧ (packRecord r).extractLsb' 18 2 = r.afc ∧
      (packRecord r).extractLsb' 20 4 = r.cc ∧ (packRecord r).getLsbD 24 = r.hasAf ∧
      (packRecord r).getLsbD 25 = r.hasPayload ∧ (packRecord r).extractLsb' 26 2 = classCode r.pidClass := by
  unfold packRecord
  refine ⟨?_, ?_, ?_, ?_, ?_, ?_, ?_, ?hasAf, ?hasPayload, ?_⟩
  case hasAf => simp only [BitVec.getLsbD_append, BitVec.getLsbD_ofBool]; simp
  case hasPayload => simp only [BitVec.getLsbD_append, BitVec.getLsbD_ofBool]; simp
  all_goals
    simp (disch := decide) only [BitVec.extractLsb'_append_eq_of_le, BitVec.extractLsb'_append_eq_right, Nat.reduceSub,
      BitVec.extractLsb'_eq_self]

/-- The fields of S2, from bit 0 up. -/
theorem statusS2_fields (s : State) : (statusS2 s).getLsbD 0 = errFlag s ∧ (statusS2 s).getLsbD 1 = errKind s ∧
    (statusS2 s).extractLsb' 2 3 = causeCode s.errCause := by
  unfold statusS2
  refine ⟨?_, ?_, ?_⟩
  · simp only [BitVec.getLsbD_append, BitVec.getLsbD_ofBool]; simp
  · simp only [BitVec.getLsbD_append, BitVec.getLsbD_ofBool]; simp
  · simp (disch := decide) only [BitVec.extractLsb'_append_eq_of_le, Nat.reduceSub, BitVec.extractLsb'_eq_self]

end Sys2Proof.Machine

namespace Sys2Proof

open Machine

/-- Settles O46: the fields of S2 and of the packed record, which S3 shows while a header is valid. -/
theorem statusRegistersShowTheState : Obligations.StatusRegistersShowTheState := by
  unfold Obligations.StatusRegistersShowTheState
  intro s
  obtain ⟨herr, hkind, hcause⟩ := statusS2_fields s
  refine ⟨herr, hkind, hcause, fun hvalid => ?_, fun w hview => ?_⟩
  · rw [statusS3Fields, viewRecord, viewWord, hvalid]
    rfl
  · refine ⟨packRecord (record Config.params w), ?_, packRecord_fields (record Config.params w)⟩
    rw [statusS3Fields, viewRecord, hview]
    rfl

end Sys2Proof

namespace Sys2Proof.Machine

/-! ### The packet of a window's events (R226) -/

/-- The body bytes are read up to the first event that is no body byte. -/
theorem takeAfBytes_append (body : List Byte) {rest : List OutEvent} (hrest : ∀ b, rest.head? ≠ some (.afByte b)) :
    takeAfBytes (body.map OutEvent.afByte ++ rest) = (body, rest) := by
  induction body with
  | nil =>
    rw [List.map_nil, List.nil_append]
    unfold takeAfBytes
    split
    · exact absurd rfl (hrest _)
    · rfl
  | cons b body ih => rw [List.map_cons, List.cons_append, takeAfBytes, ih]

/-- The payload bytes are read up to the first event that is no payload byte. -/
theorem takePayBytes_append (pay : List Byte) {rest : List OutEvent} (hrest : ∀ b, rest.head? ≠ some (.payByte b)) :
    takePayBytes (pay.map OutEvent.payByte ++ rest) = (pay, rest) := by
  induction pay with
  | nil =>
    rw [List.map_nil, List.nil_append]
    unfold takePayBytes
    split
    · exact absurd rfl (hrest _)
    · rfl
  | cons b pay ih => rw [List.map_cons, List.cons_append, takePayBytes, ih]

/-- The field's events give the field, and leave the events after it. -/
theorem readField_append (hasAf : Bool) {len : Byte} {body : List Byte} (hlen : body.length = len.toNat)
    {rest : List OutEvent} (hrest : ∀ b, rest.head? ≠ some (.afByte b)) :
    readField hasAf ((if hasAf then .afLen len :: body.map OutEvent.afByte else []) ++ rest) =
      some (if hasAf then some body else none, rest) := by
  cases hasAf with
  | false => rfl
  | true =>
    simp only [readField, if_true, List.cons_append, takeAfBytes_append body hrest]
    rw [if_pos hlen]

/-- The payload's events give the payload, and leave `Done`. -/
theorem readPayload_append (hasPayload : Bool) (pay : List Byte) :
    readPayload hasPayload ((if hasPayload then pay.map OutEvent.payByte else []) ++ [.done]) =
      (if hasPayload then some pay else none, [.done]) := by
  cases hasPayload with
  | false => rfl
  | true => simp only [readPayload, if_true, takePayBytes_append pay (rest := [.done]) nofun]

end Sys2Proof.Machine

namespace Sys2Proof

open Machine

/-- Settles O58: the field's events are read up to the payload's, and those up to `Done`. -/
theorem packetIsRebuiltFromTheEvents : Obligations.PacketIsRebuiltFromTheEvents := by
  unfold Obligations.PacketIsRebuiltFromTheEvents
  intro r len body pay hlen
  have hrest : ∀ b, ((if r.hasPayload then pay.map OutEvent.payByte else []) ++ [OutEvent.done]).head? ≠
      some (.afByte b) := by
    intro b
    cases r.hasPayload <;> cases pay <;> simp
  have hfield := readField_append r.hasAf hlen hrest
  have hpayload := readPayload_append r.hasPayload pay
  rw [List.append_assoc, packetOf, dropEos]
  · simp only [hfield, hpayload, if_true]
  · nofun

end Sys2Proof

namespace Sys2Proof.Machine

/-! ### The event of a sample (R40, R41, R91) -/

section ports
variable {s : State} {x : PortIn}

/-- The event of a sample, by the ports: a beat transfers outside `ERR` only. -/
theorem decodeEvt_evtVec (s : State) (x : PortIn) :
    decodeEvt (evtVec s x) x.inData =
      if x.rst then .reset else if x.clear then .clear
      else if xfer s x then (if x.inErr then .srcerr else if x.inEos then .eos else .byte x.inData) else .nop :=
  decodeEvt_ofBools ..

theorem xfer_of_ready (hrst : x.rst = false) (hclear : x.clear = false) (hph : s.phase ≠ .err) :
    xfer s x = x.inValid := by
  simp [xfer, inReady, hrst, hclear, hph]

theorem xfer_eq_false (h : x.inValid = false ∨ s.phase = .err) : xfer s x = false := by
  obtain h | h := h <;> simp [xfer, inReady, h]

/-- The event a sample stands for, with its beat taken to transfer. -/
theorem portEvent_eq (x : PortIn) : portEvent x =
    if x.rst then .reset else if x.clear then .clear
    else if x.inValid && !x.rst && !x.clear then
      (if x.inErr then .srcerr else if x.inEos then .eos else .byte x.inData)
    else .nop :=
  decodeEvt_ofBools ..

/-- The event of a step acts as the one its sample stands for: they differ in `ERR` only, where both are `NOP`
(R42, D8). -/
theorem react_decodeEvt_evtVec (p : Params) (s : State) (x : PortIn) :
    react p (decodeEvt (evtVec s x) x.inData) s = react p (portEvent x) s := by
  rw [decodeEvt_evtVec, portEvent_eq]
  cases hrst : x.rst with
  | true => rfl
  | false =>
    cases hclear : x.clear with
    | true => rfl
    | false =>
      by_cases hph : s.phase = .err
      · rw [xfer_eq_false (.inr hph)]
        symm
        apply react_of_phase_err hph
        all_goals simp only [Bool.false_eq_true, if_false]; repeat' split
        all_goals nofun
      · rw [xfer_of_ready hrst hclear hph]
        simp

end ports

/-! ### The samples to come do not matter to a reaction (log 1) -/

/-- The state with other samples to come. -/
def setInput (xs : List PortIn) (s : State) : State := { s with input := xs }

/-- Output in front of a run is output in front of what is seen of it. -/
theorem map_registersAndOutput_prepend (o : List OutEvent) (r : Option (State × List OutEvent)) :
    (r.map fun r => (r.1, o ++ r.2)).map registersAndOutput = (r.map registersAndOutput).map fun r => (r.1, o ++ r.2) := by
  cases r <;> rfl

/-- The outcome with other samples to come. -/
def Res.setInput (xs : List PortIn) : Res → Res
  | .next t => .next (Machine.setInput xs t)
  | .fault r => .fault r
  | .refused r => .refused r

section setInput
variable {p : Params} {xs : List PortIn} {s : State} {b len : Byte}

theorem setInput_inContext (c : Bool) (k : Res) : Res.setInput xs (inContext c k) = inContext c (k.setInput xs) := by
  cases c <;> rfl

theorem setInput_withValue {α : Type} (o : Option α) (k : α → Res) :
    Res.setInput xs (withValue o k) = withValue o fun v => (k v).setInput xs := by
  cases o <;> rfl

theorem advance_setInput : advance p (setInput xs s) = setInput xs (advance p s) := by
  unfold advance
  rw [apply_ite (setInput xs)]
  rfl

theorem afterHeader_setInput (afc : BitVec 2) : afterHeader p afc (setInput xs s) = setInput xs (afterHeader p afc s) := by
  have hadvance (ph : Phase) : advance p (setPhase ph (setInput xs s)) = setInput xs (advance p (setPhase ph s)) :=
    advance_setInput (s := setPhase ph s)
  obtain ⟨hPayload₁, hField₁, hBoth₁, hNeither₁⟩ := afterHeader_eq p (setInput xs s)
  obtain ⟨hPayload₂, hField₂, hBoth₂, hNeither₂⟩ := afterHeader_eq p s
  obtain rfl | rfl | rfl | rfl := afc_cases afc
  · rw [hNeither₁, hNeither₂, neitherRegion, neitherRegion, hadvance]
    rw [apply_ite (setInput xs)]
    rfl
  · rw [hPayload₁, hPayload₂]
    exact hadvance .payload
  · rw [hField₁, hField₂]
    exact hadvance .aflen
  · rw [hBoth₁, hBoth₂]
    exact hadvance .aflen

theorem hb3Op_setInput : hb3Op p b (setInput xs s) = (hb3Op p b s).setInput xs := by
  rw [hb3Op, hb3Op, setInput_inContext]
  refine congrArg (inContext _) ?_
  simp only [setInput_withValue]
  refine congrArg (withValue _) (funext fun b0 => congrArg (withValue _) (funext fun b1 => congrArg (withValue _)
    (funext fun b2 => congrArg Host.Outcome.next ?_)))
  exact afterHeader_setInput (s := commitHeader _ _ s) _

theorem aflenOp_setInput : aflenOp p len (setInput xs s) = (aflenOp p len s).setInput xs := by
  rw [aflenOp, aflenOp, setInput_inContext, apply_ite (Res.setInput xs), setInput_withValue]
  refine congrArg (inContext _) (congrArg (ite _ _) (congrArg (withValue _) (funext fun hasPayload => ?_)))
  rw [apply_ite (Res.setInput xs)]
  refine congrArg (ite _ _) (congrArg Host.Outcome.next ?_)
  exact advance_setInput (s := setPhase _ (emit _ (setAfRem len (setAfLen len s))))

theorem afbyteOp_setInput : afbyteOp p b (setInput xs s) = (afbyteOp p b s).setInput xs := by
  rw [afbyteOp, afbyteOp, setInput_inContext, setInput_withValue]
  refine congrArg (inContext _) (congrArg (withValue _) (funext fun r => ?_))
  rw [setInput_inContext]
  refine congrArg (inContext _) (congrArg Host.Outcome.next ?_)
  unfold bodyByte
  rw [← advance_setInput, apply_ite (setInput xs)]
  rfl

/-- An operation that advances from its context commutes with the samples to come if its writes do. -/
theorem inContext_advance_setInput (c : Bool) {s' t' : State} (h : t' = setInput xs s') :
    inContext c (.next (advance p t')) = (inContext c (.next (advance p s'))).setInput xs := by
  rw [setInput_inContext, h, advance_setInput]
  rfl

theorem byteOp_setInput : byteOp p b (setInput xs s) = (byteOp p b s).setInput xs := by
  cases hph : s.phase with
  | idle =>
    rw [byteOp_idle (s := setInput xs s) hph, byteOp_idle hph]
    split
    · exact inContext_advance_setInput _ rfl
    · rw [badSyncOp, badSyncOp, setInput_inContext]
      rfl
  | hdr =>
    have hpos : (setInput xs s).pos = s.pos := rfl
    simp only [byteOp, show (setInput xs s).phase = .hdr from hph, hph, hpos]
    split
    · exact inContext_advance_setInput _ rfl
    split
    · exact inContext_advance_setInput _ rfl
    split
    · exact hb3Op_setInput
    · rfl
  | aflen =>
    rw [byteOp_aflen (s := setInput xs s) hph, byteOp_aflen hph]
    exact aflenOp_setInput
  | af =>
    rw [byteOp_af (s := setInput xs s) hph, byteOp_af hph]
    exact afbyteOp_setInput
  | payload =>
    rw [byteOp_payload (s := setInput xs s) hph, byteOp_payload hph]
    exact inContext_advance_setInput _ rfl
  | skip =>
    rw [byteOp_skip (s := setInput xs s) hph, byteOp_skip hph]
    exact inContext_advance_setInput _ rfl
  | err =>
    rw [byteOp_err (s := setInput xs s) hph, byteOp_err hph]
    rfl

/-- A reaction does not depend on the samples to come, and leaves them. -/
theorem react_setInput (ev : Event) : react p ev (setInput xs s) = (react p ev s).setInput xs := by
  cases ev with
  | reset | clear | nop => rfl
  | byte b => exact byteOp_setInput
  | srcerr =>
    refine congrArg Host.Outcome.next ?_
    unfold srcerrOp
    rw [apply_ite (setInput xs)]
    rfl
  | eos =>
    refine congrArg Host.Outcome.next ?_
    unfold eosOp
    rw [apply_ite (setInput xs), apply_ite (setInput xs)]
    rfl

/-- What is seen of a run does not depend on the samples to come. -/
theorem runEvents_setInput (evs : List Event) :
    (runEvents p evs (setInput xs s)).map registersAndOutput = (runEvents p evs s).map registersAndOutput := by
  induction evs generalizing s with
  | nil => rfl
  | cons ev evs ih =>
    have hstep : react p ev { setInput xs s with out := [] } = (react p ev { s with out := [] }).setInput xs :=
      react_setInput (s := { s with out := [] }) ev
    cases h : react p ev { s with out := [] } with
    | next t =>
      rw [h] at hstep
      rw [runEvents_cons hstep, runEvents_cons h, map_registersAndOutput_prepend, map_registersAndOutput_prepend, ih]
      rfl
    | fault r => simp [runEvents, hstep, h, Res.setInput]
    | refused r => simp [runEvents, hstep, h, Res.setInput]

/-- A step is the reaction to the event its sample stands for, and takes the sample (log 1). -/
theorem step_of_input {x : PortIn} (h : s.input = x :: xs) :
    step s = (react Config.params (portEvent x) { s with out := [] }).setInput xs := by
  have hevent : nextEvent s = decodeEvt (evtVec s x) x.inData := by rw [nextEvent, nextSample, h]; rfl
  have hfetched : fetched s = setInput xs { s with out := [] } := by rw [fetched, h]; rfl
  rw [step_eq_react, hevent, hfetched, react_setInput]
  exact congrArg (Res.setInput xs) (react_decodeEvt_evtVec Config.params { s with out := [] } x)

/-- A run over the samples placed is seen as the run over the events they stand for. -/
theorem runSteps_seen (h : s.input = xs) : (runSteps xs.length s).map registersAndOutput =
    (runEvents Config.params (xs.map portEvent) s).map registersAndOutput := by
  induction xs generalizing s with
  | nil => rfl
  | cons x xs ih =>
    have hstep := step_of_input h
    rw [List.length_cons, List.map_cons]
    cases hreact : react Config.params (portEvent x) { s with out := [] } with
    | next t =>
      rw [hreact] at hstep
      have hrun : runSteps (xs.length + 1) s = (runSteps xs.length (setInput xs t)).map fun r => (r.1, t.out ++ r.2) := by
        rw [runSteps, hstep]
        rfl
      rw [hrun, runEvents_cons hreact, map_registersAndOutput_prepend, map_registersAndOutput_prepend, ih rfl,
        runEvents_setInput]
    | fault r => simp [runSteps, runEvents, hstep, hreact, Res.setInput]
    | refused r => simp [runSteps, runEvents, hstep, hreact, Res.setInput]

end setInput

end Sys2Proof.Machine

namespace Sys2Proof

open Machine

/-- Settles O9: the sample taken and the event decoded; the quiet sample's event is `NOP`. -/
theorem stepRunsTheDecodedEvent : Obligations.StepRunsTheDecodedEvent := by
  unfold Obligations.StepRunsTheDecodedEvent
  refine fun s => ⟨fun x rest h => ?_, fun h => ?_⟩
  · rw [step, nextEvent, nextSample, fetched, h]
    rfl
  · have hevent : nextEvent s = .nop := by
      rw [nextEvent, nextSample, h]
      exact decodeEvt_nop (evtVec_and_nopMask_of_quiet rfl rfl rfl) _
    rw [step, hevent, fetched, h, List.tail_nil, ← h]
    rfl

/-- Settles O11: the event by the ports, with `xfer` by the phase and `in_valid`. -/
theorem portsGiveTheEventByPriority : Obligations.PortsGiveTheEventByPriority := by
  unfold Obligations.PortsGiveTheEventByPriority
  intro s x
  rw [decodeEvt_evtVec]
  refine ⟨fun hrst => by rw [hrst]; rfl, fun hrst hclear => by rw [hrst, hclear]; rfl, fun hrst hclear hvalid hph => ?_,
    fun hrst hclear h => ?_⟩
  · rw [xfer_of_ready hrst hclear hph, hrst, hclear, hvalid]
    rfl
  · rw [xfer_eq_false h, hrst, hclear]
    rfl

/-- Settles O12: by induction on the samples, a step being the reaction to the event its sample stands for. -/
theorem portRunsRefineEventRuns : Obligations.PortRunsRefineEventRuns := by
  unfold Obligations.PortRunsRefineEventRuns
  exact fun xs s h => runSteps_seen h

end Sys2Proof

namespace Sys2Proof.Machine

/-! ### Each row a step matches has the effect of that step (log 5) -/

section rows
variable {s : State} {i j : Instr} {b : Byte} {w : HdrWord}

/-- The row of R94 for a byte in a context has the effect of `BYTE`. -/
theorem exec_of_decodeB8 (h : decodeB8 Config.params s.phase s.pos b = .ok i) :
    exec i s = byteOp Config.params b s := by
  obtain ⟨hidle, hhb1, hhb2, hhb3, haflen, haf, hpayload, hskip, -⟩ := byteRunsTheOperationOfItsContext s b
  unfold decodeB8 at h
  split at h
  next hph =>
    split at h
    next hpos =>
      cases h
      rw [apply_ite (exec · s)]
      exact (hidle hph hpos).symm
    · cases h
  next hph =>
    split at h
    next hpos => cases h; exact (hhb1 hph hpos).symm
    split at h
    next hpos => cases h; exact (hhb2 hph hpos).symm
    split at h
    next hpos => cases h; exact (hhb3 hph hpos).symm
    · cases h
  next hph =>
    split at h
    next hpos => cases h; exact (byteOp_aflen hph).symm
    · cases h
  next hph =>
    split at h
    next hpos => cases h; exact (byteOp_af hph).symm
    · cases h
  next hph =>
    split at h
    next hpos => cases h; exact (byteOp_payload hph).symm
    · cases h
  next hph =>
    split at h
    next hpos => cases h; exact (byteOp_skip hph).symm
    · cases h
  · cases h

/-- The step that completes a header is `BYTE` with the header's last byte. -/
theorem byteOp_of_completes (h : completes w s = true) :
    byteOp Config.params (hdrByte w 3) s = hb3Op Config.params (hdrByte w 3) s := by
  obtain ⟨hph, hpos, -⟩ := completes_iff.mp h
  exact byteOp_hb3 hph (BitVec.eq_of_toNat_eq hpos)

/-- A header word is given back by its bytes. -/
theorem eq_of_splitBytes_eq {w w' : HdrWord} {rest : List Byte} (h : splitBytes w = splitBytes w' ++ rest) : w = w' := by
  obtain ⟨h0, h1, h2, h3, -⟩ : hdrByte w 0 = hdrByte w' 0 ∧ hdrByte w 1 = hdrByte w' 1 ∧ hdrByte w 2 = hdrByte w' 2 ∧
    hdrByte w 3 = hdrByte w' 3 ∧ [] = rest := by simpa [splitBytes] using h
  rw [← join_hdrByte w, h0, h1, h2, h3, join_hdrByte]

/-- The class row of a header has the effect of the step that completes it (R166). -/
theorem exec_of_decodeClass (h : completes w s = true) (hi : decodeClass Config.params w = .ok i) :
    exec i s = byteOp Config.params (hdrByte w 3) s := by
  rw [byteOp_of_completes h]
  obtain ⟨-, hholds, hencode⟩ := readsRow_of_decodeClass hi
  cases i with
  | hdrAfc00 | hdrAfc01 | hdrAfc10 | hdrAfc11 =>
    obtain rfl := eq_of_splitBytes_eq (rest := []) hencode
    refine classStep_eq_hb3Op h fun s' => ?_
    rw [hdrAfc_pack]
    rfl
  | _ => cases hholds

/-- The PID row of a header has the effect of the step that completes it (R171 to R173). -/
theorem exec_decodePid (h : completes w s = true) :
    exec (decodePid Config.params w) s = byteOp Config.params (hdrByte w 3) s := by
  rw [byteOp_of_completes h]
  obtain ⟨hwf, hholds, hencode⟩ := readsRow_decodePid w
  cases hi : decodePid Config.params w with
  | pidcPat | pidcStuff =>
    rw [hi] at hencode
    obtain rfl := eq_of_splitBytes_eq (rest := []) hencode
    exact pidStep_eq_hb3Op h (by rw [hdrPid_pack]; rfl)
  | pidcRaw =>
    rw [hi] at hwf hencode
    obtain rfl := eq_of_splitBytes_eq (rest := []) hencode
    obtain ⟨hpat, hnull⟩ := Bool.and_eq_true_iff.mp hwf
    refine (operandOk_of hwf _).trans (pidStep_eq_hb3Op h ?_)
    rw [hdrPid_pack]
    exact ((if_neg (bne_iff_ne.mp hpat)).trans (if_neg (bne_iff_ne.mp hnull))).symm
  | _ => rw [hi] at hholds; cases hholds

/-- The length row of a header's window has the effect of `AFLEN` (R191). Above the bound any row serves. -/
theorem exec_decodeL8 {hasPayload : Bool} (hph : s.phase = .aflen) (hpos : s.pos = 4)
    (hview : Config.params.afLenMax < b.toNat ∨ viewHasPayload s = some hasPayload) :
    exec (decodeL8 Config.params hasPayload b) s = byteOp Config.params b s := by
  obtain ⟨hover, hshort⟩ := aflenRejectsBadLengths s b hph hpos
  rw [byteOp_aflen hph]
  unfold decodeL8
  split
  next hlen => exact (hover hlen).2.symm
  next hfits =>
    replace hview := hview.resolve_left hfits
    split
    next hlen => exact (hshort (hlen.1 ▸ hview) hlen.2).2.symm
    next haccepted =>
      have hle : b.toNat ≤ 183 := Nat.le_of_not_lt hfits
      refine (aflenOkAccepts s b hasPayload hph hpos hview hle ?_).2.symm
      cases hasPayload with
      | true => exact .inl rfl
      | false => exact .inr (le_antisymm hle (Nat.le_of_not_lt fun hlt => haccepted ⟨rfl, hlt⟩))

/-- The lanes and the byte of the step are the word they complete. -/
theorem completes_of_hdrWord (hph : s.phase = .hdr) (hpos : s.pos = 3)
    (h : hdrWord { s.hdr with lane3 := some b } = some w) : completes w s = true ∧ hdrByte w 3 = b := by
  unfold hdrWord at h
  split at h
  next b0 b1 b2 b3 h0 h1 h2 h3 =>
    cases h
    cases h3
    refine ⟨completes_iff.mpr ⟨hph, by rw [hpos]; rfl, ?_⟩, hdrByte_join3 ..⟩
    rw [hdrByte_join0, hdrByte_join1, hdrByte_join2]
    exact ⟨h0, h1, h2⟩
  · cases h

/-- The tables that hold the two rows with sub-cases are those of their contexts. -/
theorem context_of_holds_hb3 {ph : Phase} {pos : Byte} {tsc afc : BitVec 2} {cc : BitVec 4}
    (h : (Table.b8 ph pos).holds (.hb3 tsc afc cc) = true) : ph = .hdr ∧ pos = 3 := by
  cases ph with
  | hdr => exact ⟨rfl, beq_iff_eq.mp h⟩
  | _ => cases h

theorem context_of_holds_aflen {ph : Phase} {pos len : Byte} (h : (Table.b8 ph pos).holds (.aflen len) = true) :
    ph = .aflen ∧ pos = 4 := by
  cases ph with
  | aflen => exact ⟨rfl, BitVec.eq_of_toNat_eq (beq_iff_eq.mp h)⟩
  | _ => cases h

/-- A sub-case row is well formed and has the effect of `BYTE`. -/
theorem subRows_spec (hi : decodeB8 Config.params s.phase s.pos b = .ok i) (hj : j ∈ subRows Config.params i b s) :
    j.WellFormed ∧ exec j s = byteOp Config.params b s := by
  have hholds := (readsRow_of_decodeB8 hi).holds
  cases i with
  | hb3 tsc afc cc =>
    obtain ⟨hph, hpos⟩ := context_of_holds_hb3 hholds
    unfold subRows at hj
    cases hw : hdrWord { s.hdr with lane3 := some b } with
    | none => simp [hw] at hj
    | some w =>
      obtain ⟨hcompletes, rfl⟩ := completes_of_hdrWord hph hpos hw
      simp only [hw, List.mem_append, List.mem_singleton] at hj
      obtain hclass | rfl := hj
      · cases hdecode : decodeClass Config.params w with
        | error r => simp [hdecode, Except.toOption] at hclass
        | ok k =>
          obtain rfl : j = k := by simpa [hdecode, Except.toOption] using hclass
          exact ⟨(readsRow_of_decodeClass hdecode).wellFormed, exec_of_decodeClass hcompletes hdecode⟩
      · exact ⟨(readsRow_decodePid w).wellFormed, exec_decodePid hcompletes⟩
  | aflen len =>
    obtain ⟨hph, hpos⟩ := context_of_holds_aflen hholds
    unfold subRows at hj
    simp only at hj
    split at hj
    next hlen =>
      obtain rfl := List.mem_singleton.mp hj
      exact ⟨(readsRow_decodeL8 true b).wellFormed, exec_decodeL8 hph hpos (.inl hlen)⟩
    next =>
      obtain ⟨hasPayload, hview, rfl⟩ := List.mem_map.mp hj
      exact ⟨(readsRow_decodeL8 hasPayload b).wellFormed,
        exec_decodeL8 hph hpos (.inr (Option.mem_toList.mp hview))⟩
  | _ => cases hj

end rows

/-! ### A placed word is the next operation (log 16) -/

section placed
variable {s : State} {i : Instr} {rest : List Byte}

/-- The data byte of a vector is the byte of its `BYTE` event, and no other event has it. -/
theorem decodeEvt_data (e : EvtVec) (b : Byte) :
    decodeEvt e b = match decodeEvt e 0 with
      | .byte _ => .byte b
      | ev => ev := by
  unfold decodeEvt
  split_ifs <;> rfl

theorem nextEvent_placeSample (x : PortIn) (s : State) :
    nextEvent (placeSample x s) = decodeEvt (evtVec s x) x.inData := rfl

/-- The beat of a placed vector transfers: a state in `ERR` is first returned to `IDLE`. -/
theorem xfer_placeEvent (e : EvtVec) (b : Byte) (s : State) (hrst : e.getLsbD 4 = false) (hclear : e.getLsbD 3 = false) :
    xfer (placeEvent e b s) (sampleOfVec e b) = e.getLsbD 2 := by
  cases hvalid : e.getLsbD 2 with
  | false => exact xfer_eq_false (.inl hvalid)
  | true =>
    refine (xfer_of_ready hrst hclear ?_).trans hvalid
    by_cases hph : s.phase = .err
    · rw [placeEvent, if_pos ⟨hph, hvalid, hclear, hrst⟩]
      nofun
    · rw [placeEvent, if_neg fun h => hph h.1]
      exact hph

/-- The event of a placed vector is the one it decodes to. -/
theorem nextEvent_placeEvent (e : EvtVec) (b : Byte) (s : State) : nextEvent (placeEvent e b s) = decodeEvt e b := by
  refine (decodeEvt_evtVec (placeEvent e b s) (sampleOfVec e b)).trans ?_
  conv_rhs => rw [evtVec_eq_ofBools e, decodeEvt_ofBools]
  refine ite_congr rfl (fun _ => rfl) fun hrst => ite_congr rfl (fun _ => rfl) fun hclear => ?_
  rw [xfer_placeEvent e b s (Bool.not_eq_true _ ▸ hrst) (Bool.not_eq_true _ ▸ hclear)]
  rfl

/-- The event of a placed byte is its `BYTE`. -/
theorem nextEvent_placeSample_byteSample (b : Byte) (h : s.phase ≠ .err) :
    nextEvent (placeSample (byteSample b) s) = .byte b := by
  rw [nextEvent_placeSample, decodeEvt_evtVec, xfer_of_ready rfl rfl h]
  rfl

/-- The bytes of an event row decode to the event of its vector with its data byte. -/
theorem eq_toInstr_of_decodeEvtBytes {e b : Byte} (h : decodeEvtBytes [e, b] = .ok (i, rest)) :
    i = (decodeEvt (e.extractLsb' 0 5) b).toInstr := by
  rw [decodeEvt_data]
  dsimp only [decodeEvtBytes] at h
  split at h
  · cases h
  · cases hev : decodeEvt (e.extractLsb' 0 5) 0 with
    | byte | reset | clear | srcerr | eos | nop => rw [hev] at h; cases h; rfl

/-- The step of a placed header is the one that completes it. -/
theorem completes_placeHeader (w : HdrWord) (s : State) : completes w (fetched (placeHeader w s)) = true :=
  completes_iff.mpr ⟨rfl, rfl, rfl, rfl, rfl⟩

/-- What `decodeTableWord` reads, by table. -/
theorem decode_of_decodeTableWord {nbits w : Nat} (h : decodeTableWord nbits w = some i) :
    ∃ rest, decode (tableOfWord nbits w) (bytesOfWord nbits w) = .ok (i, rest) := by
  unfold decodeTableWord at h
  split at h
  · split at h
    next rest hdecode => cases h; exact ⟨rest, hdecode⟩
    · cases h
  · cases h

/-- The step of a placed word, where its event is known. -/
theorem step_of_nextEvent {ev : Event} (h : nextEvent s = ev) : step s = exec ev.toInstr (fetched s) := by
  rw [step, h]

/-- The low five bits of the byte of a word. -/
theorem extractLsb'_ofNat_five (w : Nat) : (BitVec.ofNat 8 w).extractLsb' 0 5 = BitVec.ofNat 5 w := by
  apply BitVec.eq_of_toNat_eq
  simp only [BitVec.extractLsb'_toNat, BitVec.toNat_ofNat, Nat.shiftRight_zero]
  omega

theorem step_placeHeader (w : HdrWord) (s : State) :
    step (placeHeader w s) = byteOp Config.params (hdrByte w 3) (fetched (placeHeader w s)) := by
  refine step_of_nextEvent (nextEvent_placeSample_byteSample _ ?_)
  exact (nofun : Phase.hdr ≠ .err)

/-- A placed event row is the next operation. -/
theorem step_placeEvent_of_decode {w : Nat} {b : Byte} (h : decode .evt [BitVec.ofNat 8 w, b] = .ok (i, rest)) :
    step (placeEvent (BitVec.ofNat 5 w) b s) = exec i (fetched (placeEvent (BitVec.ofNat 5 w) b s)) := by
  rw [eq_toInstr_of_decodeEvtBytes h, extractLsb'_ofNat_five]
  exact step_of_nextEvent (nextEvent_placeEvent ..)

/-- A placed first byte is the next operation. -/
theorem step_placeFirstByte_of_decode {b : Byte} {bs : List Byte} (h : decode (.b8 .idle 0) (b :: bs) = .ok (i, rest)) :
    step (placeFirstByte b s) = exec i (fetched (placeFirstByte b s)) := by
  rw [decode] at h
  obtain ⟨b', hb, hbytes⟩ := decodeByteWith_eq_ok h
  cases hbytes
  have hidle : (setErrCause none (setPos 0 (setPhase .idle s))).phase ≠ .err := by simp
  exact (step_of_nextEvent (nextEvent_placeSample_byteSample b hidle)).trans
    (exec_of_decodeB8 (s := fetched (placeFirstByte b s)) hb).symm

/-- A placed header of a class is the next operation. -/
theorem step_placeHeader_of_decodeClass {w : HdrWord} (h : decode .h32Class (splitBytes w) = .ok (i, rest)) :
    step (placeHeader w s) = exec i (fetched (placeHeader w s)) := by
  rw [decode] at h
  obtain ⟨w', hclass, hbytes⟩ := decodeWordWith_eq_ok h
  obtain rfl := eq_of_splitBytes_eq hbytes
  exact (step_placeHeader w s).trans (exec_of_decodeClass (completes_placeHeader w s) hclass).symm

/-- A placed header of a class of PID is the next operation. -/
theorem step_placeHeader_of_decodePid {w : HdrWord} (h : decode .h32Pid (splitBytes w) = .ok (i, rest)) :
    step (placeHeader w s) = exec i (fetched (placeHeader w s)) := by
  cases (decode_h32Pid w []).symm.trans h
  exact (step_placeHeader w s).trans (exec_decodePid (completes_placeHeader w s)).symm

end placed

end Sys2Proof.Machine

namespace Sys2Proof

open Machine

/-- Settles O10: the event's row is the step; the row of R94 and its sub-cases have the effect of `BYTE`. -/
theorem everyMatchingRowIsTheStep : Obligations.EveryMatchingRowIsTheStep := by
  unfold Obligations.EveryMatchingRowIsTheStep
  intro s i hi
  rw [step]
  unfold rowsOf at hi
  cases hev : nextEvent s with
  | byte b =>
    rw [hev] at hi
    obtain rfl | hi := List.mem_cons.mp hi
    · exact ⟨rfl, rfl⟩
    change i ∈ (match decodeB8 Config.params (fetched s).phase (fetched s).pos b with
      | .ok i => i :: subRows Config.params i b s
      | .error _ => []) at hi
    cases hrow : decodeB8 Config.params (fetched s).phase (fetched s).pos b with
    | error r => rw [hrow] at hi; cases hi
    | ok k =>
      rw [hrow] at hi
      obtain rfl | hi := List.mem_cons.mp hi
      · exact ⟨(readsRow_of_decodeB8 hrow).wellFormed, (exec_of_decodeB8 hrow).symm⟩
      · obtain ⟨hwf, hexec⟩ := subRows_spec (s := fetched s) hrow hi
        exact ⟨hwf, hexec.symm⟩
  | reset | clear | srcerr | eos | nop =>
    rw [hev] at hi
    obtain rfl := List.mem_singleton.mp hi
    exact ⟨rfl, rfl⟩

/-- Settles O8: the bytes the decoder reads are the sample placed, table by table. -/
theorem placedWordIsTheNextOperation : Obligations.PlacedWordIsTheNextOperation := by
  unfold Obligations.PlacedWordIsTheNextOperation
  intro s nbits w i hi
  obtain ⟨rest, hdecode⟩ := decode_of_decodeTableWord hi
  rw [State.withFetchWord]
  unfold placeWord
  by_cases hbits : nbits ≤ 16
  · rw [bytesOfWord, if_pos hbits] at hdecode
    rw [tableOfWord, if_pos hbits] at hdecode ⊢
    by_cases hevt : w % 256 < 32
    · rw [if_pos hevt] at hdecode ⊢
      exact step_placeEvent_of_decode hdecode
    · rw [if_neg hevt] at hdecode ⊢
      exact step_placeFirstByte_of_decode hdecode
  · rw [bytesOfWord, if_neg hbits] at hdecode
    rw [tableOfWord, if_neg hbits] at hdecode ⊢
    by_cases hsync : w / 2 ^ 24 % 256 = Config.params.syncByte.toNat
    · rw [if_pos hsync] at hdecode ⊢
      exact step_placeHeader_of_decodeClass hdecode
    · rw [if_neg hsync] at hdecode ⊢
      exact step_placeHeader_of_decodePid hdecode

end Sys2Proof
